-- ==== Sys2Proof/Word.lean ====
section
/-! DEFINITION. The two widths of the Retro24 (spec/00_scope.md R7): the byte of registers, counters and memory
cells, and the word of IC, AR and addresses. All values are unsigned. -/

namespace Sys2Proof

/-- An 8-bit value: a general register, a counter, a memory cell, an opcode or an operand byte (R5, R7). -/
abbrev Byte := BitVec 8

/-- A 16-bit value: IC, AR and every address after wrapping (R5, R7). -/
abbrev Word := BitVec 16

end Sys2Proof
end

