-- ==== Sys2Proof/Config.lean ====
section
/-! DEFINITION. The configuration record of open parameters (spec/00_scope.md R6, spec/92_eei_decisions.md D1, D2,
D6, D8, D9, D10) and the one unknown choice of them that `State.reset` is built with. -/

namespace Sys2Proof

/-- The open parameters of R6. None has a value in the spec; the machine carries them unchanged
(`Machine.State.cfg`), and nothing is assumed of them beyond `Params.wf`. -/
structure Params where
  /-- ADDR_FLAG, the update flag cell, an offset in the I/O page 0x0000 to 0x00FF (D1, log 1). -/
  addrFlag : Byte
  /-- ADDR_TICK, the mirror cell of tick (D1, log 1). -/
  addrTick : Byte
  /-- ADDR_TOCK, the mirror cell of tock (D1, log 1). -/
  addrTock : Byte
  /-- ADDR_JOY, the joystick cell (D1, log 1). -/
  addrJoy : Byte
  /-- SIC_LOW_FIRST: true if SIC stores the low byte of IC at AR (D2, log 2). -/
  sicLowFirst : Bool
  /-- TOCK_CELL_AT_INIT: the tock mirror cell between init and the end of the first step (D6, log 3). -/
  tockCellAtInit : Byte
  /-- FLAG_SET_VALUE: the byte the flag-set accessor writes (D8, log 4). -/
  flagSetValue : Byte
  /-- JOY_BIT_UP (D9, log 5). -/
  joyBitUp : Fin 8
  /-- JOY_BIT_DOWN (D9, log 5). -/
  joyBitDown : Fin 8
  /-- JOY_BIT_LEFT (D9, log 5). -/
  joyBitLeft : Fin 8
  /-- JOY_BIT_RIGHT (D9, log 5). -/
  joyBitRight : Fin 8
  /-- JOY_BIT_FIRE (D9, log 5). -/
  joyBitFire : Fin 8
  /-- STARTUP_FRAME: bytes 0, 1, … of 0xE000..0xFFFF after init; the bytes from its length up to 8192 are 0x00, so
  that every frame of 8192 bytes is a value of this field (D10, log 6). -/
  startupFrame : List Byte
  deriving DecidableEq, Repr, Inhabited

/-- The bounds R6 sets: four distinct cells, a tock cell byte of 0x00 or 0xFF, a nonzero flag byte, five distinct
joystick bits, at most 8192 frame bytes. -/
def Params.wf (p : Params) : Bool :=
  decide ([p.addrFlag, p.addrTick, p.addrTock, p.addrJoy].Nodup)
    && (p.tockCellAtInit == 0x00 || p.tockCellAtInit == 0xFF)
    && p.flagSetValue != 0x00
    && decide ([p.joyBitUp, p.joyBitDown, p.joyBitLeft, p.joyBitRight, p.joyBitFire].Nodup)
    && decide (p.startupFrame.length ≤ 8192)

/-- Address of the update flag cell (R23). -/
def Params.flagAddr (p : Params) : Word := p.addrFlag.setWidth 16

/-- Address of the tick mirror cell (R25). -/
def Params.tickAddr (p : Params) : Word := p.addrTick.setWidth 16

/-- Address of the tock mirror cell (R25). -/
def Params.tockAddr (p : Params) : Word := p.addrTock.setWidth 16

/-- Address of the joystick cell (R24). -/
def Params.joyAddr (p : Params) : Word := p.addrJoy.setWidth 16

/-- A parameter record within the bounds of R6. The default values only show Lean that such a record exists. -/
structure ValidParams where
  /-- The parameters. -/
  val : Params :=
    { addrFlag := 0, addrTick := 1, addrTock := 2, addrJoy := 3, sicLowFirst := false, tockCellAtInit := 0
      flagSetValue := 1, joyBitUp := 0, joyBitDown := 1, joyBitLeft := 2, joyBitRight := 3, joyBitFire := 4
      startupFrame := [] }
  /-- They are within the bounds of R6. -/
  ok : val.wf = true := by decide
  deriving Inhabited

/-- The parameters of the machine at hand: an unknown record within the bounds of R6. It has no body, so no proof
can rest on a value of it (logs 1 to 6). -/
opaque Config.chosen : ValidParams

end Sys2Proof
end

