-- ==== Sys2Proof/Syntax.lean ====
section
/-! DEFINITION. The instruction set of spec/30_encoding.md R53, one constructor for each of the 35 opcodes, in the
table's order; the three formats of R50; the content of a decoder table entry (R55) and of the trace latch (R18). -/

namespace Sys2Proof

/-- An instruction. `op1` and `op2` are the operand bytes of R52; every byte is legal in every position. -/
inductive Instr where
  | nul
  | mar (op1 op2 : Byte)
  | sic
  | rar
  | aar
  | ir0
  | a01
  | dr0
  | s01
  | x12
  | x01
  | jmp
  | sr0
  | srw
  | lr0
  | lrw
  | taw
  | mr0 (op1 : Byte)
  | mrw (op1 op2 : Byte)
  | jz0
  | jgw
  | jew
  | or0 (op1 : Byte)
  | an0 (op1 : Byte)
  | je0 (op1 : Byte)
  | c01
  | c02
  | irw
  | drw
  | x03
  | c03
  | c30
  | pl0
  | pr0
  | hlt
  deriving DecidableEq, Repr

/-- The three instruction formats of R50, named by their length in bytes: F1, F2, F3. -/
inductive Format where
  | f1
  | f2
  | f3
  deriving DecidableEq, Repr

/-- Total length in bytes, opcode included (R50). -/
def Format.length : Format → Nat
  | .f1 => 1
  | .f2 => 2
  | .f3 => 3

/-- One entry of the decoder table (R55): opcode byte, mnemonic and format. The transition function of the
descriptor is the instruction's meaning in Machine/. -/
structure Descriptor where
  opcode : Byte
  mnemonic : String
  format : Format
  deriving DecidableEq, Repr

/-- The content of the trace latch LI (R18): opcode byte, length, and the 0, 1 or 2 operand bytes as fetched. -/
structure LastInstr where
  opcode : Byte
  length : Nat
  operands : List Byte
  deriving DecidableEq, Repr

/-- The format of each instruction (R50, R53). -/
def Instr.format : Instr → Format
  | .mar _ _ | .mrw _ _ => .f3
  | .mr0 _ | .or0 _ | .an0 _ | .je0 _ => .f2
  | .nul | .sic | .rar | .aar | .ir0 | .a01 | .dr0 | .s01 | .x12 | .x01 | .jmp | .sr0 | .srw | .lr0 | .lrw | .taw
  | .jz0 | .jgw | .jew | .c01 | .c02 | .irw | .drw | .x03 | .c03 | .c30 | .pl0 | .pr0 | .hlt => .f1

/-- The operand bytes in the order they follow the opcode (R52). -/
def Instr.operands : Instr → List Byte
  | .mar op1 op2 | .mrw op1 op2 => [op1, op2]
  | .mr0 op1 | .or0 op1 | .an0 op1 | .je0 op1 => [op1]
  | .nul | .sic | .rar | .aar | .ir0 | .a01 | .dr0 | .s01 | .x12 | .x01 | .jmp | .sr0 | .srw | .lr0 | .lrw | .taw
  | .jz0 | .jgw | .jew | .c01 | .c02 | .irw | .drw | .x03 | .c03 | .c30 | .pl0 | .pr0 | .hlt => []

end Sys2Proof
end

