-- ==== Sys2Proof/WellFormed.lean ====
section
/-! DEFINITION. Well-formedness. An instruction has exactly the operand bytes of its format (spec/30_encoding.md R50,
R52); since operands are bytes and every byte is legal, every `Instr` passes. The checks that can fail are those on
the trace latch (R18), on decoder table entries (R55) and on the open parameters (`Params.wf`, R6). -/

namespace Sys2Proof

/-- The instruction carries the operand bytes its format has room for: none missing, none left over (R50, R142). -/
def Instr.wf (i : Instr) : Bool := i.operands.length + 1 == i.format.length

/-- A latched triple is one an executed instruction can leave: a length of 1 to 3 and the operand bytes that length
stands for (R18). -/
def LastInstr.wf (l : LastInstr) : Bool :=
  decide (1 ≤ l.length) && decide (l.length ≤ 3) && l.operands.length + 1 == l.length

/-- A decoder table is consistent: each opcode has one entry, each mnemonic has three characters (R53, R56). -/
def tableWf (t : List Descriptor) : Bool :=
  decide ((t.map Descriptor.opcode).Nodup) && t.all (fun d => d.mnemonic.length == 3)

/-- Every instruction is well formed: R52, "Operand bytes are never invalid" (R54). -/
theorem Instr.wf_all (i : Instr) : i.wf = true := by cases i <;> rfl

end Sys2Proof
end

