-- ==== Sys2Proof/Decode.lean ====
section
/-! DEFINITION. The decoder table (spec/30_encoding.md R53, R55), the decoder, and the encoder. Decoding looks at the
first byte only (R51); a byte without an entry is rejected as `invalidOpcode` (R54). The opcode literals are as the
spec prints them (log 23). -/

namespace Sys2Proof

/-- Why a list of bytes is no instruction. -/
inductive DecodeError where
  /-- The first byte has no entry in the decoder table (R54). -/
  | invalidOpcode (byte : Byte)
  /-- The list ends before the operand bytes the opcode asks for (R142, "InvalidOperandIndex"). -/
  | missingOperand (opcode : Byte)
  /-- There is no first byte. -/
  | noBytes
  deriving DecidableEq, Repr

/-- The decoder table of R53: 35 entries, "The table is the ISA specification". -/
def instructionTable : List Descriptor := [
  ⟨0x00, "NUL", .f1⟩,
  ⟨0x01, "MAR", .f3⟩,
  ⟨0x02, "SIC", .f1⟩,
  ⟨0x03, "RAR", .f1⟩,
  ⟨0x04, "AAR", .f1⟩,
  ⟨0x05, "IR0", .f1⟩,
  ⟨0x06, "A01", .f1⟩,
  ⟨0x07, "DR0", .f1⟩,
  ⟨0x08, "S01", .f1⟩,
  ⟨0x09, "X12", .f1⟩,
  ⟨0x10, "X01", .f1⟩,
  ⟨0x11, "JMP", .f1⟩,
  ⟨0x12, "SR0", .f1⟩,
  ⟨0x13, "SRW", .f1⟩,
  ⟨0x14, "LR0", .f1⟩,
  ⟨0x15, "LRW", .f1⟩,
  ⟨0x16, "TAW", .f1⟩,
  ⟨0x17, "MR0", .f2⟩,
  ⟨0x18, "MRW", .f3⟩,
  ⟨0x19, "JZ0", .f1⟩,
  ⟨0x20, "JGW", .f1⟩,
  ⟨0x21, "JEW", .f1⟩,
  ⟨0x22, "OR0", .f2⟩,
  ⟨0x23, "AN0", .f2⟩,
  ⟨0x24, "JE0", .f2⟩,
  ⟨0x25, "C01", .f1⟩,
  ⟨0x26, "C02", .f1⟩,
  ⟨0x27, "IRW", .f1⟩,
  ⟨0x28, "DRW", .f1⟩,
  ⟨0x29, "X03", .f1⟩,
  ⟨0x2A, "C03", .f1⟩,
  ⟨0x2B, "C30", .f1⟩,
  ⟨0x2C, "PL0", .f1⟩,
  ⟨0x2D, "PR0", .f1⟩,
  ⟨0xFF, "HLT", .f1⟩]

/-- The entry of an opcode byte, `none` for each of the 221 bytes without one (R54, R55). -/
def lookupOpcode (op : Byte) : Option Descriptor := instructionTable.find? (fun d => d.opcode == op)

/-- Read the one operand byte of an F2 instruction. -/
def decodeOp1 (op : Byte) (f : Byte → Instr) : List Byte → Except DecodeError (Instr × List Byte)
  | op1 :: rest => .ok (f op1, rest)
  | [] => .error (.missingOperand op)

/-- Read the two operand bytes of an F3 instruction. -/
def decodeOp12 (op : Byte) (f : Byte → Byte → Instr) : List Byte → Except DecodeError (Instr × List Byte)
  | op1 :: op2 :: rest => .ok (f op1 op2, rest)
  | _ => .error (.missingOperand op)

/-- The decoder: the instruction at the head of a list of bytes, and the bytes after it. Only the first byte selects
the instruction (R51). -/
def decode : List Byte → Except DecodeError (Instr × List Byte)
  | [] => .error .noBytes
  | op :: rest =>
    match op.toNat with
    | 0x00 => .ok (.nul, rest)
    | 0x01 => decodeOp12 op .mar rest
    | 0x02 => .ok (.sic, rest)
    | 0x03 => .ok (.rar, rest)
    | 0x04 => .ok (.aar, rest)
    | 0x05 => .ok (.ir0, rest)
    | 0x06 => .ok (.a01, rest)
    | 0x07 => .ok (.dr0, rest)
    | 0x08 => .ok (.s01, rest)
    | 0x09 => .ok (.x12, rest)
    | 0x10 => .ok (.x01, rest)
    | 0x11 => .ok (.jmp, rest)
    | 0x12 => .ok (.sr0, rest)
    | 0x13 => .ok (.srw, rest)
    | 0x14 => .ok (.lr0, rest)
    | 0x15 => .ok (.lrw, rest)
    | 0x16 => .ok (.taw, rest)
    | 0x17 => decodeOp1 op .mr0 rest
    | 0x18 => decodeOp12 op .mrw rest
    | 0x19 => .ok (.jz0, rest)
    | 0x20 => .ok (.jgw, rest)
    | 0x21 => .ok (.jew, rest)
    | 0x22 => decodeOp1 op .or0 rest
    | 0x23 => decodeOp1 op .an0 rest
    | 0x24 => decodeOp1 op .je0 rest
    | 0x25 => .ok (.c01, rest)
    | 0x26 => .ok (.c02, rest)
    | 0x27 => .ok (.irw, rest)
    | 0x28 => .ok (.drw, rest)
    | 0x29 => .ok (.x03, rest)
    | 0x2A => .ok (.c03, rest)
    | 0x2B => .ok (.c30, rest)
    | 0x2C => .ok (.pl0, rest)
    | 0x2D => .ok (.pr0, rest)
    | 0xFF => .ok (.hlt, rest)
    | _ => .error (.invalidOpcode op)

/-- The opcode byte of each instruction (R53). -/
def Instr.opcode : Instr → Byte
  | .nul => 0x00
  | .mar _ _ => 0x01
  | .sic => 0x02
  | .rar => 0x03
  | .aar => 0x04
  | .ir0 => 0x05
  | .a01 => 0x06
  | .dr0 => 0x07
  | .s01 => 0x08
  | .x12 => 0x09
  | .x01 => 0x10
  | .jmp => 0x11
  | .sr0 => 0x12
  | .srw => 0x13
  | .lr0 => 0x14
  | .lrw => 0x15
  | .taw => 0x16
  | .mr0 _ => 0x17
  | .mrw _ _ => 0x18
  | .jz0 => 0x19
  | .jgw => 0x20
  | .jew => 0x21
  | .or0 _ => 0x22
  | .an0 _ => 0x23
  | .je0 _ => 0x24
  | .c01 => 0x25
  | .c02 => 0x26
  | .irw => 0x27
  | .drw => 0x28
  | .x03 => 0x29
  | .c03 => 0x2A
  | .c30 => 0x2B
  | .pl0 => 0x2C
  | .pr0 => 0x2D
  | .hlt => 0xFF

/-- The bytes of an instruction at ascending addresses: the opcode, then its operand bytes (R50, R52). -/
def encode (i : Instr) : List Byte := i.opcode :: i.operands

/-- The three bytes that a table word stands for: byte k is bits 8k+7..8k of `w`, and every bit from `nbits` up is 0.
Three bytes is the longest instruction (R50). -/
def tableWordBytes (nbits w : Nat) : List Byte :=
  [BitVec.ofNat 8 (w % 2 ^ nbits), BitVec.ofNat 8 (w % 2 ^ nbits / 2 ^ 8), BitVec.ofNat 8 (w % 2 ^ nbits / 2 ^ 16)]

/-- The instruction the decoder reads from an instruction whose bits are `w`, numbered as spec/opcode_table.json
numbers them; `none` where the decoder refuses. -/
def decodeTableWord (nbits w : Nat) : Option Instr :=
  match decode (tableWordBytes nbits w) with
  | .ok (i, _) => some i
  | .error _ => none

end Sys2Proof
end

