-- ==== Sys2Proof/Machine/State.lean ====
section
/-! DEFINITION. The machine's state (spec/10_state.md R10 to R25), the reasons a step or a host port can stop
(spec/60_exceptions.md R141), and the state right after reset (R21). -/

namespace Sys2Proof.Machine

/-- The 65536 byte cells (R19), sparse: (address, byte) pairs with addresses strictly rising, no entry equal to what
its address reads as when unlisted (`unlistedByte`: the reset contents of R21, log 20). -/
abbrev Memory := List Host.Cell

/-- The error conditions of the core: a closed enumeration of exactly the three of R141. -/
inductive Fault where
  /-- Raised by the step at decode: the byte at `addr` (the value of IC) has no decoder table entry (R140). It is the
  hardware's own fault, so stopping with it is safe; the state is left as before the step. -/
  | invalidOpcode (addr : Word) (byte : Byte)
  /-- Raised by the step at operand fetch if the decoder table's length and the decoder disagree (R142). With the
  table of R53 it never happens. Safe: it stops. -/
  | invalidOperandIndex (opcode : Byte)
  /-- Raised by the host ports `pixelAddress` and `setPixel` for a coordinate outside 1..64 (R144); no program can
  raise it. Safe: the hardware's own fault, nothing is written. -/
  | invalidCoordinate (x y : Int)
  deriving DecidableEq, Repr

/-- What the model gives no meaning to. No instruction's meaning refuses. -/
inductive Refusal where
  /-- An instruction that has no meaning yet. Safe: it stops. No arm of `exec` answers it. -/
  | notModelled (mnemonic : String)
  /-- Raised by the host port `readRange` outside 0 <= from <= to <= 65535, where the spec defines no result and asks
  a model to refuse (R164, U6). Safe: a read-only port, the state is untouched. -/
  | readRangeOutOfDomain (first last : Int)
  deriving DecidableEq, Repr

/-- The whole state of the machine: the CPU state list of R17 and the memory of R19, plus the model's own record of
the open parameters. -/
structure State where
  /-- General register R0 (R10). -/
  r0 : Byte
  /-- General register R1 (R10). -/
  r1 : Byte
  /-- General register R2 (R10). -/
  r2 : Byte
  /-- General register R3 (R10). -/
  r3 : Byte
  /-- AR, the address register (R13). -/
  ar : Word
  /-- IC, the instruction counter (R12). -/
  ic : Word
  /-- The up-counter (R14). -/
  tick : Byte
  /-- The down-counter (R15). -/
  tock : Byte
  /-- The one-way halt flag (R16). -/
  halted : Bool
  /-- LI, the trace latch; `none` until the first completed step (R18, D20). -/
  li : Option LastInstr
  /-- The memory cells (R19). -/
  mem : Memory
  /-- DESIGN CHOICE (log 7): the open parameters of R6, fixed for a machine. No step and no port changes them. -/
  cfg : Params
  deriving DecidableEq, Repr

/-- What a step answers. -/
abbrev Result := Host.Outcome State Fault Refusal

/-- The state after init of a machine with parameters `p` (R21, R180): memory lists nothing, since an unlisted cell
reads as its reset content. -/
def State.resetWith (p : Params) : State :=
  { r0 := 0x00, r1 := 0x00, r2 := 0x00, r3 := 0x00, ar := 0x0000, ic := 0x0100, tick := 0x00, tock := 0xFF,
    halted := false, li := none, mem := [], cfg := p }

/-- The machine right after reset (R21), with the unknown parameters of the machine at hand. -/
def State.reset : State := State.resetWith Config.chosen.val

end Sys2Proof.Machine
end

