-- ==== Sys2Proof/Machine/Operands.lean ====
section
/-! DEFINITION. Byte and word helpers (spec/00_scope.md R7), the assembly of immediates (spec/30_encoding.md R52) and
the one addressing mode, register-indirect through AR (spec/45_load_store.md R125). -/

namespace Sys2Proof.Machine

/-- `hi8(w) = w[15:8]` (R7). -/
def hi8 (w : Word) : Byte := w.extractLsb' 8 8

/-- `lo8(w) = w[7:0]` (R7). -/
def lo8 (w : Word) : Byte := w.extractLsb' 0 8

/-- `(h << 8) | l`: the word whose high byte is `h` and low byte is `l` (R7). -/
def wordOf (h l : Byte) : Word := h ++ l

/-- MAR's immediate `op1 | (op2 << 8)`, low byte first (R52, R34). -/
def imm16 (op1 op2 : Byte) : Word := wordOf op2 op1

/-- `a mod 65536` for any integer `a` (R31): the cell an address names. -/
def wrapAddr (a : Int) : Word := BitVec.ofInt 16 a

/-- `v mod 256` for any integer `v` (R32): the byte a value is stored as. -/
def wrapByte (v : Int) : Byte := BitVec.ofInt 8 v

/-- Effective address of a one-byte access, and of the first access of a two-byte one (R125). -/
def effAddr (s : State) : Word := s.ar

/-- Effective address of the second access, `(AR + 1) mod 65536` (R125, R35). -/
def effAddrNext (s : State) : Word := s.ar + 1

/-- `zext_16` of a byte (R7), the addend of AAR. -/
def zext16 (v : Byte) : Word := v.setWidth 16

end Sys2Proof.Machine
end

