-- ==== Sys2Proof/Machine/Flags.lean ====
section
/-! DEFINITION. The machine has no flags (spec/10_state.md R17): a carry or borrow is consumed inside the instruction.
Here are the computations that take the place of flags: saturating steps (spec/42_arithmetic.md R90, R91), the R1/R2
pair with carry (R92) and with borrow (R93), and the conditions of the jumps (spec/46_control.md R132 to R135). Each
is computed in unbounded numbers and narrowed explicitly (R96). -/

namespace Sys2Proof.Machine

/-- Increment saturating at 0xFF (R90). -/
def satInc (v : Byte) : Byte := if v = 0xFF then v else BitVec.ofNat 8 (v.toNat + 1)

/-- Decrement saturating at 0x00 (R91); `-` on `Nat` stops at 0. -/
def satDec (v : Byte) : Byte := BitVec.ofNat 8 (v.toNat - 1)

/-- R1 plus an addend, carry into R2, both 0xFF if R2 cannot take the carry (R92). The pair is (R1, R2). -/
def addPair (r1 r2 addend : Byte) : Byte × Byte :=
  let sum := r1.toNat + addend.toNat
  if sum ≤ 255 then (BitVec.ofNat 8 sum, r2)
  else if r2 ≠ 0xFF then (BitVec.ofNat 8 (sum - 256), BitVec.ofNat 8 (r2.toNat + 1))
  else (0xFF, 0xFF)

/-- R1 minus a subtrahend; on a borrow R1 becomes the magnitude and R2 gives one, both 0x00 if R2 cannot (R93,
decision D7, log 11). The pair is (R1, R2). -/
def subPair (r1 r2 subtrahend : Byte) : Byte × Byte :=
  let diff : Int := (r1.toNat : Int) - subtrahend.toNat
  if 0 ≤ diff then (BitVec.ofNat 8 diff.natAbs, r2)
  else if r2 ≠ 0x00 then (BitVec.ofNat 8 diff.natAbs, BitVec.ofNat 8 (r2.toNat - 1))
  else (0x00, 0x00)

/-- JZ0's condition: R0 = 0x00 (R132). -/
def condZero (s : State) : Bool := s.r0 == 0x00

/-- JGW's condition: R1 > R2, unsigned and strict (R133). -/
def condGreater (s : State) : Bool := decide (s.r2.toNat < s.r1.toNat)

/-- JEW's condition: R1 = R2 (R134). -/
def condEqualPair (s : State) : Bool := s.r1 == s.r2

/-- JE0's condition: R0 equals the immediate (R135). -/
def condEqualImm (op1 : Byte) (s : State) : Bool := s.r0 == op1

end Sys2Proof.Machine
end

