-- ==== Sys2Proof/Machine/Ops.lean ====
section
/-! DEFINITION. The named operations over memory and registers (spec/20_memory.md R30 to R33), the three control
outcomes (spec/40_execution_cycle.md R69), the end of a completed step (R70, R71), the fetch (R67) and the machine's
only exception, the fault handed to the host (spec/60_exceptions.md R140, R147: there is no trap entry and no return). -/

namespace Sys2Proof.Machine

/-! ### Memory -/

/-- What a cell that memory does not list reads as: its content right after init (R21, R36), which for the flag cell,
the tock mirror cell and the planes is an open parameter (logs 3, 4, 6, 20). -/
def unlistedByte (p : Params) (a : Nat) : Byte :=
  if a < 0x0100 then
    if a = p.flagAddr.toNat then p.flagSetValue
    else if a = p.tockAddr.toNat then p.tockCellAtInit
    else 0x00
  else if a < 0xE000 then 0xFF
  else p.startupFrame.getD (a - 0xE000) 0x00

/-- The entry listed for an address. -/
def Memory.find (a : Nat) : Memory → Option Byte
  | [] => none
  | (k, v) :: m => if k = a then some v else Memory.find a m

/-- List `v` for address `a`, keeping the addresses rising. -/
def Memory.insert (a : Nat) (v : Byte) : Memory → Memory
  | [] => [(a, v)]
  | (k, w) :: m =>
    if a < k then (a, v) :: (k, w) :: m
    else if a = k then (a, v) :: m
    else (k, w) :: Memory.insert a v m

/-- List nothing for address `a`. -/
def Memory.erase (a : Nat) : Memory → Memory
  | [] => []
  | (k, w) :: m => if k = a then Memory.erase a m else (k, w) :: Memory.erase a m

/-- The byte in a cell. -/
def Memory.read (p : Params) (m : Memory) (a : Word) : Byte :=
  match Memory.find a.toNat m with
  | some v => v
  | none => unlistedByte p a.toNat

/-- Store a byte in a cell; the byte an unlisted cell reads as is not listed. -/
def Memory.write (p : Params) (m : Memory) (a : Word) (v : Byte) : Memory :=
  if v = unlistedByte p a.toNat then Memory.erase a.toNat m else Memory.insert a.toNat v m

/-- Every listed address is above `lo` and below 65536, they rise strictly, and no entry is what its address would
read as unlisted. -/
def Memory.wfFrom (p : Params) : Nat → Memory → Bool
  | _, [] => true
  | lo, (k, v) :: m =>
    decide (lo ≤ k) && decide (k < 0x10000) && v != unlistedByte p k && Memory.wfFrom p (k + 1) m

/-- The canonical form: two memories in it that read alike are the same list. -/
def Memory.wf (p : Params) (m : Memory) : Bool := Memory.wfFrom p 0 m

/-- `mem[a]` for a wrapped address (R31). It changes no state. -/
def State.readByte (s : State) (a : Word) : Byte := Memory.read s.cfg s.mem a

/-- `mem[a] <- v` for a wrapped address and a byte (R32). It changes nothing else. -/
def State.writeByte (s : State) (a : Word) (v : Byte) : State := { s with mem := Memory.write s.cfg s.mem a v }

/-- `MemRead(a, 1)` for any integer `a` (R31). -/
def State.memRead (s : State) (a : Int) : Byte := s.readByte (wrapAddr a)

/-- `MemWrite(a, 1, v)` for any integers `a` and `v` (R32). -/
def State.memWrite (s : State) (a v : Int) : State := s.writeByte (wrapAddr a) (wrapByte v)

/-- Store a list of bytes at ascending addresses from `a`, each address taken mod 65536. -/
def State.writeRun (s : State) (a : Word) : List Byte → State
  | [] => s
  | b :: bs => (s.writeByte a b).writeRun (a + 1) bs

/-- The `n` bytes at ascending addresses from `a`, each address taken mod 65536. -/
def State.readRun (s : State) (a : Word) : Nat → List Byte
  | 0 => []
  | n + 1 => s.readByte a :: s.readRun (a + 1) n

/-! ### Registers -/

/-- `R[0] <- v` (R8). -/
def State.setR0 (s : State) (v : Byte) : State := { s with r0 := v }

/-- `R[1] <- v` (R8). -/
def State.setR1 (s : State) (v : Byte) : State := { s with r1 := v }

/-- `R[2] <- v` (R8). -/
def State.setR2 (s : State) (v : Byte) : State := { s with r2 := v }

/-- `R[3] <- v` (R8). -/
def State.setR3 (s : State) (v : Byte) : State := { s with r3 := v }

/-- `R[1] <- p.1; R[2] <- p.2`: the pair W of R11. -/
def State.setPair (s : State) (p : Byte × Byte) : State := { s with r1 := p.1, r2 := p.2 }

/-- `AR <- v` (R8). -/
def State.setAR (s : State) (v : Word) : State := { s with ar := v }

/-- `IC <- v` (R8). -/
def State.setIC (s : State) (v : Word) : State := { s with ic := v }

/-- `halted <- true` (R16). -/
def State.setHalted (s : State) : State := { s with halted := true }

/-! ### Control outcomes: phase 5 of the step (R69) -/

/-- Outcome `advance`: IC <- (IC + len) mod 65536. -/
def advance (len : Nat) (s : State) : Result := .next (s.setIC (s.ic + BitVec.ofNat 16 len))

/-- Outcome `jump AR`: IC <- AR. -/
def jumpAR (s : State) : Result := .next (s.setIC s.ar)

/-- Outcome `halt`: halted <- true, IC keeps the address of the HLT opcode (D4, log 9). -/
def halt (s : State) : Result := .next s.setHalted

/-- `jump AR` if the condition holds, else `advance` by the jump's own length (R137). -/
def jumpIf (cond : Bool) (len : Nat) (s : State) : Result := if cond then jumpAR s else advance len s

/-! ### The end of a completed step: phases 6 and 7 (R70, R71) -/

/-- tick <- (tick + 1) mod 256 (R14). -/
def nextTick (t : Byte) : Byte := t + 1

/-- tock <- tock - 1, held at 0 (R15). -/
def nextTock (t : Byte) : Byte := if t = 0 then 0 else t - 1

/-- Phase 6: count both counters, then mirror tick and then tock into their cells (R70, D24). -/
def State.countStep (s : State) : State :=
  let t := { s with tick := nextTick s.tick, tock := nextTock s.tock }
  (t.writeByte s.cfg.tickAddr t.tick).writeByte s.cfg.tockAddr t.tock

/-- The latch content for an instruction fetched as `opcode` and `operands` (R18). -/
def latched (opcode : Byte) (operands : List Byte) : LastInstr := ⟨opcode, operands.length + 1, operands⟩

/-- Phase 7: LI <- (opcode, len, operand bytes) (R71). -/
def State.latch (s : State) (opcode : Byte) (operands : List Byte) : State :=
  { s with li := some (latched opcode operands) }

/-- Phases 6 and 7 (R70, R71). -/
def State.complete (s : State) (opcode : Byte) (operands : List Byte) : State := s.countStep.latch opcode operands

/-! ### Fetch and decode: phases 2 and 3 (R67), and the fault (R140) -/

/-- What a fetch yields: the instruction, and its bytes as they stood in memory. -/
structure Fetched where
  instr : Instr
  opcode : Byte
  operands : List Byte
  deriving DecidableEq, Repr

/-- Taking the machine's only exception: the fault InvalidOpcode with the value of IC and the byte there. It transfers
control nowhere, saves nothing and changes no state; it is handed to the host (R140, R147). -/
def raiseInvalidOpcode (s : State) : Fault := .invalidOpcode s.ic (s.readByte s.ic)

/-- Fetch the opcode at IC, look up its length, fetch the operand bytes at IC+1 and IC+2, and decode (R67). A table
and length mismatch is InvalidOperandIndex, which never happens (R142). -/
def fetch (s : State) : Except Fault Fetched :=
  let opcode := s.readByte s.ic
  match lookupOpcode opcode with
  | none => .error (raiseInvalidOpcode s)
  | some d =>
    let operands := s.readRun (s.ic + 1) (d.format.length - 1)
    match decode (opcode :: operands) with
    | .ok (i, _) => .ok ⟨i, opcode, operands⟩
    | .error (.invalidOpcode _) => .error (raiseInvalidOpcode s)
    | .error _ => .error (.invalidOperandIndex opcode)

end Sys2Proof.Machine
end

