-- ==== Sys2Proof/Machine/AddressRegister.lean ====
section
/-! DEFINITION. The address-register instructions MAR, RAR, AAR, TAW (spec/41_address_register.md R80 to R83). -/

namespace Sys2Proof.Machine

/-- MAR (R80): AR <- op1 | (op2 << 8). -/
def execMar (op1 op2 : Byte) (s : State) : Result := advance 3 (s.setAR (imm16 op1 op2))

/-- RAR (R81): AR <- (R1 << 8) | R2, R1 the high byte (U1). -/
def execRar (s : State) : Result := advance 1 (s.setAR (wordOf s.r1 s.r2))

/-- AAR (R82): AR <- (AR + zext_16(R0)) mod 65536, the carry discarded. -/
def execAar (s : State) : Result := advance 1 (s.setAR (s.ar + zext16 s.r0))

/-- TAW (R83): R1 <- hi8(AR), R2 <- lo8(AR) (U1). -/
def execTaw (s : State) : Result := advance 1 ((s.setR1 (hi8 s.ar)).setR2 (lo8 s.ar))

end Sys2Proof.Machine
end

