-- ==== Sys2Proof/Machine/Arithmetic.lean ====
section
/-! DEFINITION. The arithmetic instructions IR0, DR0, A01, S01, IRW, DRW (spec/42_arithmetic.md R90 to R96). -/

namespace Sys2Proof.Machine

/-- IR0 (R90): R0 <- min(255, R0 + 1). -/
def execIr0 (s : State) : Result := advance 1 (s.setR0 (satInc s.r0))

/-- DR0 (R91): R0 <- max(0, R0 - 1). -/
def execDr0 (s : State) : Result := advance 1 (s.setR0 (satDec s.r0))

/-- A01 (R92): add R0 to the pair R1 (low-order), R2 (high-order), saturating at 0xFF, 0xFF. -/
def execA01 (s : State) : Result := advance 1 (s.setPair (addPair s.r1 s.r2 s.r0))

/-- IRW (R94): A01 with the constant 1 in place of R0. -/
def execIrw (s : State) : Result := advance 1 (s.setPair (addPair s.r1 s.r2 0x01))

/-- S01 (R93): subtract R0 from R1 with borrow from R2, magnitude on a borrow, floor at 0x00, 0x00 (D7, log 11). -/
def execS01 (s : State) : Result := advance 1 (s.setPair (subPair s.r1 s.r2 s.r0))

/-- DRW (R95): S01 with the constant 1 in place of R0 (D7, log 11). -/
def execDrw (s : State) : Result := advance 1 (s.setPair (subPair s.r1 s.r2 0x01))

end Sys2Proof.Machine
end

