-- ==== Sys2Proof/Machine/Control.lean ====
section
/-! DEFINITION. The control instructions NUL, JMP, JZ0, JGW, JEW, JE0, HLT (spec/46_control.md R130 to R138). Every
jump goes to AR, and a jump not taken advances by its own length (R137). -/

namespace Sys2Proof.Machine

/-- NUL (R130): nothing but the advance. -/
def execNul (s : State) : Result := advance 1 s

/-- JMP (R131): jump to AR. -/
def execJmp (s : State) : Result := jumpAR s

/-- JZ0 (R132): jump to AR if R0 = 0x00. -/
def execJz0 (s : State) : Result := jumpIf (condZero s) 1 s

/-- JGW (R133): jump to AR if R1 > R2, unsigned. -/
def execJgw (s : State) : Result := jumpIf (condGreater s) 1 s

/-- JEW (R134): jump to AR if R1 = R2. -/
def execJew (s : State) : Result := jumpIf (condEqualPair s) 1 s

/-- JE0 (R135): jump to AR if R0 = op1; not taken, IC moves by 2. -/
def execJe0 (op1 : Byte) (s : State) : Result := jumpIf (condEqualImm op1 s) 2 s

/-- HLT (R136): set halted; IC stays on this opcode byte (D4, log 9). -/
def execHlt (s : State) : Result := halt s

end Sys2Proof.Machine
end

