-- ==== Sys2Proof/Machine/LoadStore.lean ====
section
/-! DEFINITION. The loads and stores SIC, SR0, SRW, LR0, LRW (spec/45_load_store.md R120 to R125). Two-byte forms make
two one-byte accesses, at AR first and then at AR+1 mod 65536 (spec/20_memory.md R35, R37). -/

namespace Sys2Proof.Machine

/-- The two accesses of SIC and SRW: `b1` at AR, then `b2` at AR+1. -/
def storeTwo (b1 b2 : Byte) (s : State) : State := (s.writeByte (effAddr s) b1).writeByte (effAddrNext s) b2

/-- The byte SIC stores at AR, of the value `w`, by SIC_LOW_FIRST (R120, D2, log 2). -/
def sicFirst (s : State) (w : Word) : Byte := if s.cfg.sicLowFirst then lo8 w else hi8 w

/-- The byte SIC stores at AR+1 (R120, D2, log 2). -/
def sicSecond (s : State) (w : Word) : Byte := if s.cfg.sicLowFirst then hi8 w else lo8 w

/-- SIC (R120): store the two bytes of IC, which is still the address of this SIC's own opcode (D3, log 8). -/
def execSic (s : State) : Result := advance 1 (storeTwo (sicFirst s s.ic) (sicSecond s s.ic) s)

/-- SR0 (R121): mem[AR] <- R0. -/
def execSr0 (s : State) : Result := advance 1 (s.writeByte (effAddr s) s.r0)

/-- SRW (R122): mem[AR] <- R1, mem[AR+1] <- R2. -/
def execSrw (s : State) : Result := advance 1 (storeTwo s.r1 s.r2 s)

/-- LR0 (R123): R0 <- mem[AR]. -/
def execLr0 (s : State) : Result := advance 1 (s.setR0 (s.readByte (effAddr s)))

/-- LRW (R124): R1 <- mem[AR], R2 <- mem[AR+1]. -/
def execLrw (s : State) : Result :=
  advance 1 ((s.setR1 (s.readByte (effAddr s))).setR2 (s.readByte (effAddrNext s)))

end Sys2Proof.Machine
end

