-- ==== Sys2Proof/Machine/LogicShift.lean ====
section
/-! DEFINITION. The logic and shift instructions OR0, AN0, PL0, PR0 (spec/43_logic_shift.md R100 to R103). -/

namespace Sys2Proof.Machine

/-- OR0 (R100): R0 <- R0 | op1. -/
def execOr0 (op1 : Byte) (s : State) : Result := advance 2 (s.setR0 (s.r0 ||| op1))

/-- AN0 (R101): R0 <- R0 & op1. -/
def execAn0 (op1 : Byte) (s : State) : Result := advance 2 (s.setR0 (s.r0 &&& op1))

/-- PL0 (R102): R0 <- (R0 << 1) mod 256, bit 7 lost. -/
def execPl0 (s : State) : Result := advance 1 (s.setR0 (s.r0 <<< 1))

/-- PR0 (R103): R0 <- R0 >> 1, zero-filled, bit 0 lost. -/
def execPr0 (s : State) : Result := advance 1 (s.setR0 (s.r0 >>> 1))

end Sys2Proof.Machine
end

