-- ==== Sys2Proof/Machine/Moves.lean ====
section
/-! DEFINITION. The immediate loads, swaps and copies MR0, MRW, X12, X01, X03, C01, C02, C03, C30
(spec/44_moves.md R110 to R118). -/

namespace Sys2Proof.Machine

/-- MR0 (R110): R0 <- op1. -/
def execMr0 (op1 : Byte) (s : State) : Result := advance 2 (s.setR0 op1)

/-- MRW (R111): R1 <- op1, R2 <- op2. -/
def execMrw (op1 op2 : Byte) (s : State) : Result := advance 3 ((s.setR1 op1).setR2 op2)

/-- X12 (R112): swap R1 and R2, simultaneously. -/
def execX12 (s : State) : Result := advance 1 ((s.setR1 s.r2).setR2 s.r1)

/-- X01 (R113): swap R0 and R1, simultaneously. -/
def execX01 (s : State) : Result := advance 1 ((s.setR0 s.r1).setR1 s.r0)

/-- X03 (R114): swap R0 and R3, simultaneously. -/
def execX03 (s : State) : Result := advance 1 ((s.setR0 s.r3).setR3 s.r0)

/-- C01 (R115): R1 <- R0. -/
def execC01 (s : State) : Result := advance 1 (s.setR1 s.r0)

/-- C02 (R116): R2 <- R0. -/
def execC02 (s : State) : Result := advance 1 (s.setR2 s.r0)

/-- C03 (R117): R3 <- R0. -/
def execC03 (s : State) : Result := advance 1 (s.setR3 s.r0)

/-- C30 (R118): R0 <- R3. -/
def execC30 (s : State) : Result := advance 1 (s.setR0 s.r3)

end Sys2Proof.Machine
end

