-- ==== Sys2Proof/Machine/Step.lean ====
section
/-! DEFINITION. One step of the machine (spec/40_execution_cycle.md R65 to R72): halted check, fetch and decode, the
instruction with its IC update (`exec`), then the counters with their mirrors and the trace latch. -/

namespace Sys2Proof.Machine

/-- One step (R72). A halted core is idle: the same state again (R66, D18, log 16). A byte that is no opcode is the
fault, with no state changed (R67, R140). -/
def step (s : State) : Host.Outcome State Fault Refusal :=
  if s.halted then .next s
  else
    match fetch s with
    | .error f => .fault f
    | .ok g =>
      match exec g.instr s with
      | .next t => .next (t.complete g.opcode g.operands)
      | .fault f => .fault f
      | .refused r => .refused r

/-- `s` with the instruction of table word `w` stored where the next step fetches: its three bytes at IC, IC+1 and
IC+2, and the core not halted (a halted core fetches nothing). It stands for the host's load (R183, log 19). -/
def State.withFetchWord (s : State) (nbits w : Nat) : State :=
  { s.writeRun s.ic (tableWordBytes nbits w) with halted := false }

end Sys2Proof.Machine
end

