-- ==== Sys2Proof/Laws/State.lean ====
section
/-! SUPPORT. One lemma per field per update of the state record, true by `rfl`, so that no proof unfolds an update. -/

namespace Sys2Proof.Machine

@[simp] theorem State.setR0_r0 (s : State) (v : Byte) : (s.setR0 v).r0 = v := rfl
@[simp] theorem State.setR0_r1 (s : State) (v : Byte) : (s.setR0 v).r1 = s.r1 := rfl
@[simp] theorem State.setR0_r2 (s : State) (v : Byte) : (s.setR0 v).r2 = s.r2 := rfl
@[simp] theorem State.setR0_r3 (s : State) (v : Byte) : (s.setR0 v).r3 = s.r3 := rfl
@[simp] theorem State.setR0_ar (s : State) (v : Byte) : (s.setR0 v).ar = s.ar := rfl
@[simp] theorem State.setR0_ic (s : State) (v : Byte) : (s.setR0 v).ic = s.ic := rfl
@[simp] theorem State.setR0_tick (s : State) (v : Byte) : (s.setR0 v).tick = s.tick := rfl
@[simp] theorem State.setR0_tock (s : State) (v : Byte) : (s.setR0 v).tock = s.tock := rfl
@[simp] theorem State.setR0_halted (s : State) (v : Byte) : (s.setR0 v).halted = s.halted := rfl
@[simp] theorem State.setR0_li (s : State) (v : Byte) : (s.setR0 v).li = s.li := rfl
@[simp] theorem State.setR0_mem (s : State) (v : Byte) : (s.setR0 v).mem = s.mem := rfl
@[simp] theorem State.setR0_cfg (s : State) (v : Byte) : (s.setR0 v).cfg = s.cfg := rfl

@[simp] theorem State.setR1_r0 (s : State) (v : Byte) : (s.setR1 v).r0 = s.r0 := rfl
@[simp] theorem State.setR1_r1 (s : State) (v : Byte) : (s.setR1 v).r1 = v := rfl
@[simp] theorem State.setR1_r2 (s : State) (v : Byte) : (s.setR1 v).r2 = s.r2 := rfl
@[simp] theorem State.setR1_r3 (s : State) (v : Byte) : (s.setR1 v).r3 = s.r3 := rfl
@[simp] theorem State.setR1_ar (s : State) (v : Byte) : (s.setR1 v).ar = s.ar := rfl
@[simp] theorem State.setR1_ic (s : State) (v : Byte) : (s.setR1 v).ic = s.ic := rfl
@[simp] theorem State.setR1_tick (s : State) (v : Byte) : (s.setR1 v).tick = s.tick := rfl
@[simp] theorem State.setR1_tock (s : State) (v : Byte) : (s.setR1 v).tock = s.tock := rfl
@[simp] theorem State.setR1_halted (s : State) (v : Byte) : (s.setR1 v).halted = s.halted := rfl
@[simp] theorem State.setR1_li (s : State) (v : Byte) : (s.setR1 v).li = s.li := rfl
@[simp] theorem State.setR1_mem (s : State) (v : Byte) : (s.setR1 v).mem = s.mem := rfl
@[simp] theorem State.setR1_cfg (s : State) (v : Byte) : (s.setR1 v).cfg = s.cfg := rfl

@[simp] theorem State.setR2_r0 (s : State) (v : Byte) : (s.setR2 v).r0 = s.r0 := rfl
@[simp] theorem State.setR2_r1 (s : State) (v : Byte) : (s.setR2 v).r1 = s.r1 := rfl
@[simp] theorem State.setR2_r2 (s : State) (v : Byte) : (s.setR2 v).r2 = v := rfl
@[simp] theorem State.setR2_r3 (s : State) (v : Byte) : (s.setR2 v).r3 = s.r3 := rfl
@[simp] theorem State.setR2_ar (s : State) (v : Byte) : (s.setR2 v).ar = s.ar := rfl
@[simp] theorem State.setR2_ic (s : State) (v : Byte) : (s.setR2 v).ic = s.ic := rfl
@[simp] theorem State.setR2_tick (s : State) (v : Byte) : (s.setR2 v).tick = s.tick := rfl
@[simp] theorem State.setR2_tock (s : State) (v : Byte) : (s.setR2 v).tock = s.tock := rfl
@[simp] theorem State.setR2_halted (s : State) (v : Byte) : (s.setR2 v).halted = s.halted := rfl
@[simp] theorem State.setR2_li (s : State) (v : Byte) : (s.setR2 v).li = s.li := rfl
@[simp] theorem State.setR2_mem (s : State) (v : Byte) : (s.setR2 v).mem = s.mem := rfl
@[simp] theorem State.setR2_cfg (s : State) (v : Byte) : (s.setR2 v).cfg = s.cfg := rfl

@[simp] theorem State.setR3_r0 (s : State) (v : Byte) : (s.setR3 v).r0 = s.r0 := rfl
@[simp] theorem State.setR3_r1 (s : State) (v : Byte) : (s.setR3 v).r1 = s.r1 := rfl
@[simp] theorem State.setR3_r2 (s : State) (v : Byte) : (s.setR3 v).r2 = s.r2 := rfl
@[simp] theorem State.setR3_r3 (s : State) (v : Byte) : (s.setR3 v).r3 = v := rfl
@[simp] theorem State.setR3_ar (s : State) (v : Byte) : (s.setR3 v).ar = s.ar := rfl
@[simp] theorem State.setR3_ic (s : State) (v : Byte) : (s.setR3 v).ic = s.ic := rfl
@[simp] theorem State.setR3_tick (s : State) (v : Byte) : (s.setR3 v).tick = s.tick := rfl
@[simp] theorem State.setR3_tock (s : State) (v : Byte) : (s.setR3 v).tock = s.tock := rfl
@[simp] theorem State.setR3_halted (s : State) (v : Byte) : (s.setR3 v).halted = s.halted := rfl
@[simp] theorem State.setR3_li (s : State) (v : Byte) : (s.setR3 v).li = s.li := rfl
@[simp] theorem State.setR3_mem (s : State) (v : Byte) : (s.setR3 v).mem = s.mem := rfl
@[simp] theorem State.setR3_cfg (s : State) (v : Byte) : (s.setR3 v).cfg = s.cfg := rfl

@[simp] theorem State.setPair_r0 (s : State) (p : Byte × Byte) : (s.setPair p).r0 = s.r0 := rfl
@[simp] theorem State.setPair_r1 (s : State) (p : Byte × Byte) : (s.setPair p).r1 = p.1 := rfl
@[simp] theorem State.setPair_r2 (s : State) (p : Byte × Byte) : (s.setPair p).r2 = p.2 := rfl
@[simp] theorem State.setPair_r3 (s : State) (p : Byte × Byte) : (s.setPair p).r3 = s.r3 := rfl
@[simp] theorem State.setPair_ar (s : State) (p : Byte × Byte) : (s.setPair p).ar = s.ar := rfl
@[simp] theorem State.setPair_ic (s : State) (p : Byte × Byte) : (s.setPair p).ic = s.ic := rfl
@[simp] theorem State.setPair_tick (s : State) (p : Byte × Byte) : (s.setPair p).tick = s.tick := rfl
@[simp] theorem State.setPair_tock (s : State) (p : Byte × Byte) : (s.setPair p).tock = s.tock := rfl
@[simp] theorem State.setPair_halted (s : State) (p : Byte × Byte) : (s.setPair p).halted = s.halted := rfl
@[simp] theorem State.setPair_li (s : State) (p : Byte × Byte) : (s.setPair p).li = s.li := rfl
@[simp] theorem State.setPair_mem (s : State) (p : Byte × Byte) : (s.setPair p).mem = s.mem := rfl
@[simp] theorem State.setPair_cfg (s : State) (p : Byte × Byte) : (s.setPair p).cfg = s.cfg := rfl

@[simp] theorem State.setAR_r0 (s : State) (v : Word) : (s.setAR v).r0 = s.r0 := rfl
@[simp] theorem State.setAR_r1 (s : State) (v : Word) : (s.setAR v).r1 = s.r1 := rfl
@[simp] theorem State.setAR_r2 (s : State) (v : Word) : (s.setAR v).r2 = s.r2 := rfl
@[simp] theorem State.setAR_r3 (s : State) (v : Word) : (s.setAR v).r3 = s.r3 := rfl
@[simp] theorem State.setAR_ar (s : State) (v : Word) : (s.setAR v).ar = v := rfl
@[simp] theorem State.setAR_ic (s : State) (v : Word) : (s.setAR v).ic = s.ic := rfl
@[simp] theorem State.setAR_tick (s : State) (v : Word) : (s.setAR v).tick = s.tick := rfl
@[simp] theorem State.setAR_tock (s : State) (v : Word) : (s.setAR v).tock = s.tock := rfl
@[simp] theorem State.setAR_halted (s : State) (v : Word) : (s.setAR v).halted = s.halted := rfl
@[simp] theorem State.setAR_li (s : State) (v : Word) : (s.setAR v).li = s.li := rfl
@[simp] theorem State.setAR_mem (s : State) (v : Word) : (s.setAR v).mem = s.mem := rfl
@[simp] theorem State.setAR_cfg (s : State) (v : Word) : (s.setAR v).cfg = s.cfg := rfl

@[simp] theorem State.setIC_r0 (s : State) (v : Word) : (s.setIC v).r0 = s.r0 := rfl
@[simp] theorem State.setIC_r1 (s : State) (v : Word) : (s.setIC v).r1 = s.r1 := rfl
@[simp] theorem State.setIC_r2 (s : State) (v : Word) : (s.setIC v).r2 = s.r2 := rfl
@[simp] theorem State.setIC_r3 (s : State) (v : Word) : (s.setIC v).r3 = s.r3 := rfl
@[simp] theorem State.setIC_ar (s : State) (v : Word) : (s.setIC v).ar = s.ar := rfl
@[simp] theorem State.setIC_ic (s : State) (v : Word) : (s.setIC v).ic = v := rfl
@[simp] theorem State.setIC_tick (s : State) (v : Word) : (s.setIC v).tick = s.tick := rfl
@[simp] theorem State.setIC_tock (s : State) (v : Word) : (s.setIC v).tock = s.tock := rfl
@[simp] theorem State.setIC_halted (s : State) (v : Word) : (s.setIC v).halted = s.halted := rfl
@[simp] theorem State.setIC_li (s : State) (v : Word) : (s.setIC v).li = s.li := rfl
@[simp] theorem State.setIC_mem (s : State) (v : Word) : (s.setIC v).mem = s.mem := rfl
@[simp] theorem State.setIC_cfg (s : State) (v : Word) : (s.setIC v).cfg = s.cfg := rfl

@[simp] theorem State.setHalted_r0 (s : State) : (s.setHalted).r0 = s.r0 := rfl
@[simp] theorem State.setHalted_r1 (s : State) : (s.setHalted).r1 = s.r1 := rfl
@[simp] theorem State.setHalted_r2 (s : State) : (s.setHalted).r2 = s.r2 := rfl
@[simp] theorem State.setHalted_r3 (s : State) : (s.setHalted).r3 = s.r3 := rfl
@[simp] theorem State.setHalted_ar (s : State) : (s.setHalted).ar = s.ar := rfl
@[simp] theorem State.setHalted_ic (s : State) : (s.setHalted).ic = s.ic := rfl
@[simp] theorem State.setHalted_tick (s : State) : (s.setHalted).tick = s.tick := rfl
@[simp] theorem State.setHalted_tock (s : State) : (s.setHalted).tock = s.tock := rfl
@[simp] theorem State.setHalted_halted (s : State) : (s.setHalted).halted = true := rfl
@[simp] theorem State.setHalted_li (s : State) : (s.setHalted).li = s.li := rfl
@[simp] theorem State.setHalted_mem (s : State) : (s.setHalted).mem = s.mem := rfl
@[simp] theorem State.setHalted_cfg (s : State) : (s.setHalted).cfg = s.cfg := rfl

@[simp] theorem State.writeByte_r0 (s : State) (a : Word) (v : Byte) : (s.writeByte a v).r0 = s.r0 := rfl
@[simp] theorem State.writeByte_r1 (s : State) (a : Word) (v : Byte) : (s.writeByte a v).r1 = s.r1 := rfl
@[simp] theorem State.writeByte_r2 (s : State) (a : Word) (v : Byte) : (s.writeByte a v).r2 = s.r2 := rfl
@[simp] theorem State.writeByte_r3 (s : State) (a : Word) (v : Byte) : (s.writeByte a v).r3 = s.r3 := rfl
@[simp] theorem State.writeByte_ar (s : State) (a : Word) (v : Byte) : (s.writeByte a v).ar = s.ar := rfl
@[simp] theorem State.writeByte_ic (s : State) (a : Word) (v : Byte) : (s.writeByte a v).ic = s.ic := rfl
@[simp] theorem State.writeByte_tick (s : State) (a : Word) (v : Byte) : (s.writeByte a v).tick = s.tick := rfl
@[simp] theorem State.writeByte_tock (s : State) (a : Word) (v : Byte) : (s.writeByte a v).tock = s.tock := rfl
@[simp] theorem State.writeByte_halted (s : State) (a : Word) (v : Byte) : (s.writeByte a v).halted = s.halted := rfl
@[simp] theorem State.writeByte_li (s : State) (a : Word) (v : Byte) : (s.writeByte a v).li = s.li := rfl
@[simp] theorem State.writeByte_mem (s : State) (a : Word) (v : Byte) : (s.writeByte a v).mem = Memory.write s.cfg s.mem a v := rfl
@[simp] theorem State.writeByte_cfg (s : State) (a : Word) (v : Byte) : (s.writeByte a v).cfg = s.cfg := rfl

@[simp] theorem State.latch_r0 (s : State) (opcode : Byte) (operands : List Byte) :
    (s.latch opcode operands).r0 = s.r0 := rfl
@[simp] theorem State.latch_r1 (s : State) (opcode : Byte) (operands : List Byte) :
    (s.latch opcode operands).r1 = s.r1 := rfl
@[simp] theorem State.latch_r2 (s : State) (opcode : Byte) (operands : List Byte) :
    (s.latch opcode operands).r2 = s.r2 := rfl
@[simp] theorem State.latch_r3 (s : State) (opcode : Byte) (operands : List Byte) :
    (s.latch opcode operands).r3 = s.r3 := rfl
@[simp] theorem State.latch_ar (s : State) (opcode : Byte) (operands : List Byte) :
    (s.latch opcode operands).ar = s.ar := rfl
@[simp] theorem State.latch_ic (s : State) (opcode : Byte) (operands : List Byte) :
    (s.latch opcode operands).ic = s.ic := rfl
@[simp] theorem State.latch_tick (s : State) (opcode : Byte) (operands : List Byte) :
    (s.latch opcode operands).tick = s.tick := rfl
@[simp] theorem State.latch_tock (s : State) (opcode : Byte) (operands : List Byte) :
    (s.latch opcode operands).tock = s.tock := rfl
@[simp] theorem State.latch_halted (s : State) (opcode : Byte) (operands : List Byte) :
    (s.latch opcode operands).halted = s.halted := rfl
@[simp] theorem State.latch_li (s : State) (opcode : Byte) (operands : List Byte) :
    (s.latch opcode operands).li = some (latched opcode operands) := rfl
@[simp] theorem State.latch_mem (s : State) (opcode : Byte) (operands : List Byte) :
    (s.latch opcode operands).mem = s.mem := rfl
@[simp] theorem State.latch_cfg (s : State) (opcode : Byte) (operands : List Byte) :
    (s.latch opcode operands).cfg = s.cfg := rfl

@[simp] theorem State.countStep_r0 (s : State) : s.countStep.r0 = s.r0 := rfl
@[simp] theorem State.countStep_r1 (s : State) : s.countStep.r1 = s.r1 := rfl
@[simp] theorem State.countStep_r2 (s : State) : s.countStep.r2 = s.r2 := rfl
@[simp] theorem State.countStep_r3 (s : State) : s.countStep.r3 = s.r3 := rfl
@[simp] theorem State.countStep_ar (s : State) : s.countStep.ar = s.ar := rfl
@[simp] theorem State.countStep_ic (s : State) : s.countStep.ic = s.ic := rfl
@[simp] theorem State.countStep_tick (s : State) : s.countStep.tick = nextTick s.tick := rfl
@[simp] theorem State.countStep_tock (s : State) : s.countStep.tock = nextTock s.tock := rfl
@[simp] theorem State.countStep_halted (s : State) : s.countStep.halted = s.halted := rfl
@[simp] theorem State.countStep_li (s : State) : s.countStep.li = s.li := rfl
@[simp] theorem State.countStep_cfg (s : State) : s.countStep.cfg = s.cfg := rfl

@[simp] theorem State.complete_r0 (s : State) (opcode : Byte) (operands : List Byte) :
    (s.complete opcode operands).r0 = s.r0 := rfl
@[simp] theorem State.complete_r1 (s : State) (opcode : Byte) (operands : List Byte) :
    (s.complete opcode operands).r1 = s.r1 := rfl
@[simp] theorem State.complete_r2 (s : State) (opcode : Byte) (operands : List Byte) :
    (s.complete opcode operands).r2 = s.r2 := rfl
@[simp] theorem State.complete_r3 (s : State) (opcode : Byte) (operands : List Byte) :
    (s.complete opcode operands).r3 = s.r3 := rfl
@[simp] theorem State.complete_ar (s : State) (opcode : Byte) (operands : List Byte) :
    (s.complete opcode operands).ar = s.ar := rfl
@[simp] theorem State.complete_ic (s : State) (opcode : Byte) (operands : List Byte) :
    (s.complete opcode operands).ic = s.ic := rfl
@[simp] theorem State.complete_tick (s : State) (opcode : Byte) (operands : List Byte) :
    (s.complete opcode operands).tick = nextTick s.tick := rfl
@[simp] theorem State.complete_tock (s : State) (opcode : Byte) (operands : List Byte) :
    (s.complete opcode operands).tock = nextTock s.tock := rfl
@[simp] theorem State.complete_halted (s : State) (opcode : Byte) (operands : List Byte) :
    (s.complete opcode operands).halted = s.halted := rfl
@[simp] theorem State.complete_li (s : State) (opcode : Byte) (operands : List Byte) :
    (s.complete opcode operands).li = some (latched opcode operands) := rfl
@[simp] theorem State.complete_cfg (s : State) (opcode : Byte) (operands : List Byte) :
    (s.complete opcode operands).cfg = s.cfg := rfl

/-! Reading a byte depends on memory and configuration alone. -/

@[simp] theorem State.readByte_setR0 (s : State) (v : Byte) (a : Word) : (s.setR0 v).readByte a = s.readByte a := rfl
@[simp] theorem State.readByte_setR1 (s : State) (v : Byte) (a : Word) : (s.setR1 v).readByte a = s.readByte a := rfl
@[simp] theorem State.readByte_setR2 (s : State) (v : Byte) (a : Word) : (s.setR2 v).readByte a = s.readByte a := rfl
@[simp] theorem State.readByte_setR3 (s : State) (v : Byte) (a : Word) : (s.setR3 v).readByte a = s.readByte a := rfl
@[simp] theorem State.readByte_setPair (s : State) (p : Byte × Byte) (a : Word) : (s.setPair p).readByte a = s.readByte a := rfl
@[simp] theorem State.readByte_setAR (s : State) (v : Word) (a : Word) : (s.setAR v).readByte a = s.readByte a := rfl
@[simp] theorem State.readByte_setIC (s : State) (v : Word) (a : Word) : (s.setIC v).readByte a = s.readByte a := rfl
@[simp] theorem State.readByte_setHalted (s : State) (a : Word) : (s.setHalted).readByte a = s.readByte a := rfl
@[simp] theorem State.readByte_latch (s : State) (opcode : Byte) (operands : List Byte) (a : Word) :
    (s.latch opcode operands).readByte a = s.readByte a := rfl
@[simp] theorem State.readByte_complete (s : State) (opcode : Byte) (operands : List Byte) (a : Word) :
    (s.complete opcode operands).readByte a = s.countStep.readByte a := rfl

end Sys2Proof.Machine
end

