-- ==== Sys2Proof/Laws/Operands.lean ====
section
/-! SUPPORT. The byte and word helpers as numbers, that they undo each other, and the effective addresses. -/

namespace Sys2Proof.Machine

@[simp] theorem wordOf_toNat (h l : Byte) : (wordOf h l).toNat = 256 * h.toNat + l.toNat := by
  have hl := l.isLt
  unfold wordOf
  rw [show (h ++ l : BitVec 16) = (h ++ l : BitVec (8 + 8)) from rfl, BitVec.toNat_append, ← Nat.shiftLeft_add_eq_or_of_lt hl,
    Nat.shiftLeft_eq]
  omega

@[simp] theorem imm16_toNat (op1 op2 : Byte) : (imm16 op1 op2).toNat = op1.toNat + 256 * op2.toNat := by
  simp [imm16]
  omega

@[simp] theorem hi8_toNat (w : Word) : (hi8 w).toNat = w.toNat / 256 := by
  have := w.isLt
  simp [hi8, Nat.shiftRight_eq_div_pow]
  omega

@[simp] theorem lo8_toNat (w : Word) : (lo8 w).toNat = w.toNat % 256 := by simp [lo8]

@[simp] theorem wordOf_hi8_lo8 (w : Word) : wordOf (hi8 w) (lo8 w) = w := by
  apply BitVec.eq_of_toNat_eq
  simp
  omega

@[simp] theorem hi8_wordOf (h l : Byte) : hi8 (wordOf h l) = h := by
  apply BitVec.eq_of_toNat_eq
  have := l.isLt
  simp
  omega

@[simp] theorem lo8_wordOf (h l : Byte) : lo8 (wordOf h l) = l := by
  apply BitVec.eq_of_toNat_eq
  have := l.isLt
  simp
  omega

@[simp] theorem zext16_toNat (v : Byte) : (zext16 v).toNat = v.toNat := by
  have := v.isLt
  simp [zext16]
  omega

/-- An address and the next one are never the same cell. -/
theorem effAddr_ne_next (s : State) : effAddr s ≠ effAddrNext s := by simp [effAddr, effAddrNext]

theorem effAddrNext_toNat (s : State) : (effAddrNext s).toNat = (s.ar.toNat + 1) % 65536 := by simp [effAddrNext]

end Sys2Proof.Machine
end

