-- ==== Sys2Proof/Laws/PerInstr.lean ====
section
/-! SUPPORT. A family of facts about every instruction as syntax: its opcode has one decoder table entry, which gives
its mnemonic's format, and its encoding has the length of that entry (spec/30_encoding.md R50, R53). -/

namespace Sys2Proof.Laws.TableRow

/-- The instruction's row of the decoder table stands for it. -/
def Statement (i : Instr) : Prop :=
  ∃ d, lookupOpcode i.opcode = some d ∧ d.format = i.format ∧ (encode i).length = d.format.length ∧ i.wf = true

theorem nul : Statement .nul := ⟨_, rfl, rfl, rfl, rfl⟩
theorem mar (op1 op2 : Byte) : Statement (.mar op1 op2) := ⟨_, rfl, rfl, rfl, rfl⟩
theorem sic : Statement .sic := ⟨_, rfl, rfl, rfl, rfl⟩
theorem rar : Statement .rar := ⟨_, rfl, rfl, rfl, rfl⟩
theorem aar : Statement .aar := ⟨_, rfl, rfl, rfl, rfl⟩
theorem ir0 : Statement .ir0 := ⟨_, rfl, rfl, rfl, rfl⟩
theorem a01 : Statement .a01 := ⟨_, rfl, rfl, rfl, rfl⟩
theorem dr0 : Statement .dr0 := ⟨_, rfl, rfl, rfl, rfl⟩
theorem s01 : Statement .s01 := ⟨_, rfl, rfl, rfl, rfl⟩
theorem x12 : Statement .x12 := ⟨_, rfl, rfl, rfl, rfl⟩
theorem x01 : Statement .x01 := ⟨_, rfl, rfl, rfl, rfl⟩
theorem jmp : Statement .jmp := ⟨_, rfl, rfl, rfl, rfl⟩
theorem sr0 : Statement .sr0 := ⟨_, rfl, rfl, rfl, rfl⟩
theorem srw : Statement .srw := ⟨_, rfl, rfl, rfl, rfl⟩
theorem lr0 : Statement .lr0 := ⟨_, rfl, rfl, rfl, rfl⟩
theorem lrw : Statement .lrw := ⟨_, rfl, rfl, rfl, rfl⟩
theorem taw : Statement .taw := ⟨_, rfl, rfl, rfl, rfl⟩
theorem mr0 (op1 : Byte) : Statement (.mr0 op1) := ⟨_, rfl, rfl, rfl, rfl⟩
theorem mrw (op1 op2 : Byte) : Statement (.mrw op1 op2) := ⟨_, rfl, rfl, rfl, rfl⟩
theorem jz0 : Statement .jz0 := ⟨_, rfl, rfl, rfl, rfl⟩
theorem jgw : Statement .jgw := ⟨_, rfl, rfl, rfl, rfl⟩
theorem jew : Statement .jew := ⟨_, rfl, rfl, rfl, rfl⟩
theorem or0 (op1 : Byte) : Statement (.or0 op1) := ⟨_, rfl, rfl, rfl, rfl⟩
theorem an0 (op1 : Byte) : Statement (.an0 op1) := ⟨_, rfl, rfl, rfl, rfl⟩
theorem je0 (op1 : Byte) : Statement (.je0 op1) := ⟨_, rfl, rfl, rfl, rfl⟩
theorem c01 : Statement .c01 := ⟨_, rfl, rfl, rfl, rfl⟩
theorem c02 : Statement .c02 := ⟨_, rfl, rfl, rfl, rfl⟩
theorem irw : Statement .irw := ⟨_, rfl, rfl, rfl, rfl⟩
theorem drw : Statement .drw := ⟨_, rfl, rfl, rfl, rfl⟩
theorem x03 : Statement .x03 := ⟨_, rfl, rfl, rfl, rfl⟩
theorem c03 : Statement .c03 := ⟨_, rfl, rfl, rfl, rfl⟩
theorem c30 : Statement .c30 := ⟨_, rfl, rfl, rfl, rfl⟩
theorem pl0 : Statement .pl0 := ⟨_, rfl, rfl, rfl, rfl⟩
theorem pr0 : Statement .pr0 := ⟨_, rfl, rfl, rfl, rfl⟩
theorem hlt : Statement .hlt := ⟨_, rfl, rfl, rfl, rfl⟩

end Sys2Proof.Laws.TableRow
end

