-- ==== Sys2Proof/Laws/Memory.lean ====
section
/-! SUPPORT. The memory: a read after a write, a write keeps the canonical form, two canonical memories that read
alike are equal. -/

namespace Sys2Proof.Machine

/-! ### Finding -/

theorem Memory.find_insert_self (a : Nat) (v : Byte) (m : Memory) : Memory.find a (Memory.insert a v m) = some v := by
  induction m with
  | nil => simp [Memory.insert, Memory.find]
  | cons e m ih =>
    obtain ⟨k, w⟩ := e
    simp only [Memory.insert]
    split
    · simp [Memory.find]
    · split
      · simp [Memory.find]
      · have : k ≠ a := fun h => by simp_all
        simp [Memory.find, this, ih]

theorem Memory.find_insert_other {a b : Nat} (h : b ≠ a) (v : Byte) (m : Memory) :
    Memory.find b (Memory.insert a v m) = Memory.find b m := by
  induction m with
  | nil => simp [Memory.insert, Memory.find, h.symm]
  | cons e m ih =>
    obtain ⟨k, w⟩ := e
    simp only [Memory.insert]
    split
    · simp [Memory.find, h.symm]
    · split
      · rename_i hk
        subst hk
        simp [Memory.find, h.symm]
      · simp [Memory.find, ih]

theorem Memory.find_erase_self (a : Nat) (m : Memory) : Memory.find a (Memory.erase a m) = none := by
  induction m with
  | nil => rfl
  | cons e m ih =>
    obtain ⟨k, w⟩ := e
    simp only [Memory.erase]
    split
    · exact ih
    · rename_i hk
      simp [Memory.find, hk, ih]

theorem Memory.find_erase_other {a b : Nat} (h : b ≠ a) (m : Memory) :
    Memory.find b (Memory.erase a m) = Memory.find b m := by
  induction m with
  | nil => rfl
  | cons e m ih =>
    obtain ⟨k, w⟩ := e
    simp only [Memory.erase]
    split
    · rename_i hk
      subst hk
      simp [Memory.find, h.symm, ih]
    · simp [Memory.find, ih]

/-! ### Reading after writing, in any memory -/

/-- The law of R32: the written cell reads as the written byte. -/
@[simp] theorem Memory.read_write_self (p : Params) (m : Memory) (a : Word) (v : Byte) :
    Memory.read p (Memory.write p m a v) a = v := by
  unfold Memory.write
  split
  · simp [Memory.read, Memory.find_erase_self, *]
  · simp [Memory.read, Memory.find_insert_self]

/-- Every other cell reads as before (R32). -/
theorem Memory.read_write_other (p : Params) (m : Memory) {a b : Word} (h : b ≠ a) (v : Byte) :
    Memory.read p (Memory.write p m a v) b = Memory.read p m b := by
  have hn : b.toNat ≠ a.toNat := fun e => h (BitVec.eq_of_toNat_eq e)
  unfold Memory.write
  split
  · simp [Memory.read, Memory.find_erase_other hn]
  · simp [Memory.read, Memory.find_insert_other hn]

/-- Both cases at once. -/
theorem Memory.read_write (p : Params) (m : Memory) (a b : Word) (v : Byte) :
    Memory.read p (Memory.write p m a v) b = if b = a then v else Memory.read p m b := by
  split
  · rename_i h
    subst h
    simp
  · rename_i h
    exact Memory.read_write_other p m h v

/-! ### The canonical form -/

theorem Memory.wfFrom_cons (p : Params) (lo k : Nat) (v : Byte) (m : Memory) :
    Memory.wfFrom p lo ((k, v) :: m) = true ↔
      lo ≤ k ∧ k < 0x10000 ∧ v ≠ unlistedByte p k ∧ Memory.wfFrom p (k + 1) m = true := by
  simp [Memory.wfFrom, and_assoc]

theorem Memory.wfFrom_mono {p : Params} {m : Memory} {lo lo' : Nat} (hle : lo' ≤ lo)
    (h : Memory.wfFrom p lo m = true) : Memory.wfFrom p lo' m = true := by
  cases m with
  | nil => rfl
  | cons e m =>
    obtain ⟨k, v⟩ := e
    rw [Memory.wfFrom_cons] at h ⊢
    exact ⟨hle.trans h.1, h.2⟩

theorem Memory.wfFrom_erase {p : Params} (a : Nat) {m : Memory} {lo : Nat} (h : Memory.wfFrom p lo m = true) :
    Memory.wfFrom p lo (Memory.erase a m) = true := by
  induction m generalizing lo with
  | nil => rfl
  | cons e m ih =>
    obtain ⟨k, v⟩ := e
    rw [Memory.wfFrom_cons] at h
    obtain ⟨h1, h2, h3, h4⟩ := h
    simp only [Memory.erase]
    split
    · exact ih (Memory.wfFrom_mono (by omega) h4)
    · exact (Memory.wfFrom_cons ..).2 ⟨h1, h2, h3, ih h4⟩

theorem Memory.wfFrom_insert {p : Params} {a : Nat} {v : Byte} (ha : a < 0x10000) (hv : v ≠ unlistedByte p a)
    {m : Memory} {lo : Nat} (hlo : lo ≤ a) (h : Memory.wfFrom p lo m = true) :
    Memory.wfFrom p lo (Memory.insert a v m) = true := by
  induction m generalizing lo with
  | nil => exact (Memory.wfFrom_cons ..).2 ⟨hlo, ha, hv, rfl⟩
  | cons e m ih =>
    obtain ⟨k, w⟩ := e
    have hcons := h
    rw [Memory.wfFrom_cons] at h
    obtain ⟨h1, h2, h3, h4⟩ := h
    simp only [Memory.insert]
    split
    · exact (Memory.wfFrom_cons ..).2 ⟨hlo, ha, hv, (Memory.wfFrom_cons ..).2 ⟨by omega, h2, h3, h4⟩⟩
    · split
      · rename_i hk
        subst hk
        exact (Memory.wfFrom_cons ..).2 ⟨hlo, ha, hv, h4⟩
      · exact (Memory.wfFrom_cons ..).2 ⟨h1, h2, h3, ih (by omega) h4⟩

/-- A write keeps the canonical form. -/
theorem Memory.wf_write {p : Params} {m : Memory} (a : Word) (v : Byte) (h : Memory.wf p m = true) :
    Memory.wf p (Memory.write p m a v) = true := by
  unfold Memory.write
  split
  · exact Memory.wfFrom_erase _ h
  · exact Memory.wfFrom_insert a.isLt ‹_› (Nat.zero_le _) h

/-- The memory of the reset state has the canonical form. -/
theorem Memory.wf_nil (p : Params) : Memory.wf p [] = true := rfl

/-! ### Canonical memories are told apart by reading -/

theorem Memory.find_eq_none_of_wfFrom {p : Params} {m : Memory} {lo a : Nat} (h : Memory.wfFrom p lo m = true)
    (ha : a < lo) : Memory.find a m = none := by
  induction m generalizing lo with
  | nil => rfl
  | cons e m ih =>
    obtain ⟨k, v⟩ := e
    rw [Memory.wfFrom_cons] at h
    simp only [Memory.find]
    rw [if_neg (by omega)]
    exact ih h.2.2.2 (by omega)

/-- A listed byte is never what its address reads as unlisted. -/
theorem Memory.find_ne_unlisted {p : Params} {m : Memory} {lo a : Nat} {v : Byte} (h : Memory.wfFrom p lo m = true)
    (hf : Memory.find a m = some v) : v ≠ unlistedByte p a := by
  induction m generalizing lo with
  | nil => simp [Memory.find] at hf
  | cons e m ih =>
    obtain ⟨k, w⟩ := e
    rw [Memory.wfFrom_cons] at h
    simp only [Memory.find] at hf
    split at hf
    · rename_i hk
      subst hk
      cases hf
      exact h.2.2.1
    · exact ih h.2.2.2 hf

theorem Memory.find_lt {p : Params} {m : Memory} {lo a : Nat} {v : Byte} (h : Memory.wfFrom p lo m = true)
    (hf : Memory.find a m = some v) : a < 0x10000 := by
  induction m generalizing lo with
  | nil => simp [Memory.find] at hf
  | cons e m ih =>
    obtain ⟨k, w⟩ := e
    rw [Memory.wfFrom_cons] at h
    simp only [Memory.find] at hf
    split at hf
    · rename_i hk
      subst hk
      exact h.2.1
    · exact ih h.2.2.2 hf

theorem Memory.eq_of_find_eq {p : Params} {m n : Memory} {lo : Nat} (hm : Memory.wfFrom p lo m = true)
    (hn : Memory.wfFrom p lo n = true) (h : ∀ a, Memory.find a m = Memory.find a n) : m = n := by
  induction m generalizing n lo with
  | nil =>
    cases n with
    | nil => rfl
    | cons e n =>
      have := h e.1
      simp [Memory.find] at this
  | cons e m ih =>
    obtain ⟨k, v⟩ := e
    cases n with
    | nil =>
      have := h k
      simp [Memory.find] at this
    | cons e' n =>
      obtain ⟨k', v'⟩ := e'
      rw [Memory.wfFrom_cons] at hm hn
      have hk : k = k' := by
        by_contra hne
        rcases Nat.lt_or_gt_of_ne hne with hlt | hlt
        · have := h k
          simp only [Memory.find, if_true, if_neg (Ne.symm hne)] at this
          rw [Memory.find_eq_none_of_wfFrom hn.2.2.2 (by omega)] at this
          cases this
        · have := h k'
          simp only [Memory.find, if_true, if_neg hne] at this
          rw [Memory.find_eq_none_of_wfFrom hm.2.2.2 (by omega)] at this
          cases this
      subst hk
      have hv : v = v' := by
        have := h k
        simpa [Memory.find] using this
      subst hv
      rw [ih hm.2.2.2 hn.2.2.2 (fun a => ?_)]
      by_cases ha : a = k
      · subst ha
        rw [Memory.find_eq_none_of_wfFrom hm.2.2.2 (by omega), Memory.find_eq_none_of_wfFrom hn.2.2.2 (by omega)]
      · have := h a
        simpa [Memory.find, Ne.symm ha] using this

/-- Two memories in canonical form that read alike at every address are the same list. -/
theorem Memory.eq_of_read_eq {p : Params} {m n : Memory} (hm : Memory.wf p m = true) (hn : Memory.wf p n = true)
    (h : ∀ a, Memory.read p m a = Memory.read p n a) : m = n := by
  refine Memory.eq_of_find_eq hm hn fun a => ?_
  by_cases ha : a < 0x10000
  · have hr := h (BitVec.ofNat 16 a)
    have hmod : (BitVec.ofNat 16 a).toNat = a := by simp [BitVec.toNat_ofNat]; omega
    simp only [Memory.read, hmod] at hr
    cases hx : Memory.find a m with
    | none =>
      cases hy : Memory.find a n with
      | none => rfl
      | some w =>
        simp only [hx, hy] at hr
        exact absurd hr.symm (Memory.find_ne_unlisted hn hy)
    | some v =>
      cases hy : Memory.find a n with
      | none =>
        simp only [hx, hy] at hr
        exact absurd hr (Memory.find_ne_unlisted hm hx)
      | some w =>
        simp only [hx, hy] at hr
        rw [hr]
  · cases hx : Memory.find a m with
    | none =>
      cases hy : Memory.find a n with
      | none => rfl
      | some w => exact absurd (Memory.find_lt hn hy) ha
    | some v => exact absurd (Memory.find_lt hm hx) ha

end Sys2Proof.Machine
end

