-- ==== Sys2Proof/Laws/Ops.lean ====
section
/-! SUPPORT. What each shared operation can do, said once: reading after the writes of a step, runs of bytes, the
control outcomes, the fetch, and the cases of a step that answers a next state. -/

namespace Sys2Proof.Machine

/-! ### Bytes -/

theorem State.readByte_writeByte (s : State) (a b : Word) (v : Byte) :
    (s.writeByte a v).readByte b = if b = a then v else s.readByte b :=
  Memory.read_write s.cfg s.mem a b v

@[simp] theorem State.readByte_writeByte_self (s : State) (a : Word) (v : Byte) : (s.writeByte a v).readByte a = v := by
  simp [State.readByte_writeByte]

theorem State.readByte_writeByte_other (s : State) {a b : Word} (h : b ≠ a) (v : Byte) :
    (s.writeByte a v).readByte b = s.readByte b := by
  simp [State.readByte_writeByte, h]

/-- After the counters are mirrored, the tock cell holds tock, the tick cell (where it is another cell) tick, and
every other cell what it held (R70). -/
theorem State.readByte_countStep (s : State) (a : Word) :
    s.countStep.readByte a =
      if a = s.cfg.tockAddr then nextTock s.tock
      else if a = s.cfg.tickAddr then nextTick s.tick else s.readByte a := by
  simp only [State.countStep, State.readByte_writeByte]
  rfl

theorem State.readByte_countStep_other (s : State) {a : Word} (h1 : a ≠ s.cfg.tickAddr) (h2 : a ≠ s.cfg.tockAddr) :
    s.countStep.readByte a = s.readByte a := by
  simp [State.readByte_countStep, h1, h2]

theorem State.wf_writeByte {s : State} (h : Memory.wf s.cfg s.mem = true) (a : Word) (v : Byte) :
    Memory.wf (s.writeByte a v).cfg (s.writeByte a v).mem = true := Memory.wf_write a v h

theorem State.wf_countStep {s : State} (h : Memory.wf s.cfg s.mem = true) :
    Memory.wf s.countStep.cfg s.countStep.mem = true := Memory.wf_write _ _ (Memory.wf_write _ _ h)

/-! ### Runs of bytes -/

/-- The cell `i + 1` above `a` is the cell `i` above the next one. -/
theorem addr_succ (a : Word) (i : Nat) : a + BitVec.ofNat 16 (i + 1) = a + 1 + BitVec.ofNat 16 i := by
  rw [Nat.add_comm i 1, BitVec.ofNat_add, ← BitVec.add_assoc]
  rfl

theorem State.wf_writeRun {s : State} (h : Memory.wf s.cfg s.mem = true) (a : Word) (bs : List Byte) :
    Memory.wf (s.writeRun a bs).cfg (s.writeRun a bs).mem = true := by
  induction bs generalizing s a with
  | nil => exact h
  | cons b bs ih => exact ih (State.wf_writeByte h a b) (a + 1)

/-- A run of stores changes memory alone. -/
theorem State.writeRun_frame (s : State) (a : Word) (bs : List Byte) :
    s.writeRun a bs = { s with mem := (s.writeRun a bs).mem } := by
  induction bs generalizing s a with
  | nil => rfl
  | cons b bs ih =>
    have h := ih (s.writeByte a b) (a + 1)
    simp only [State.writeRun]
    rw [h]
    rfl

@[simp] theorem State.writeRun_cfg (s : State) (a : Word) (bs : List Byte) : (s.writeRun a bs).cfg = s.cfg := by
  rw [State.writeRun_frame]

/-- A cell no store of the run reaches keeps its byte. -/
theorem State.readByte_writeRun_outside (s : State) (a b : Word) (bs : List Byte)
    (h : ∀ i < bs.length, b ≠ a + BitVec.ofNat 16 i) : (s.writeRun a bs).readByte b = s.readByte b := by
  induction bs generalizing s a with
  | nil => rfl
  | cons v bs ih =>
    have h0 : b ≠ a := by
      have := h 0 (by simp)
      simpa using this
    simp only [State.writeRun]
    rw [ih _ _ (fun i hi => ?_), State.readByte_writeByte_other _ h0]
    have := h (i + 1) (by simpa using hi)
    rwa [addr_succ] at this

/-- A run that does not go round the whole address space leaves its byte in each cell it stores to. -/
theorem State.readByte_writeRun_inside (s : State) (a : Word) (bs : List Byte) (hlen : bs.length ≤ 0x10000)
    (i : Nat) (hi : i < bs.length) : (s.writeRun a bs).readByte (a + BitVec.ofNat 16 i) = bs[i] := by
  induction bs generalizing s a i with
  | nil => cases hi
  | cons v bs ih =>
    simp only [List.length_cons] at hlen hi
    simp only [State.writeRun]
    cases i with
    | zero =>
      rw [State.readByte_writeRun_outside]
      · simp
      · intro j hj he
        rw [← addr_succ] at he
        have := congrArg BitVec.toNat he
        simp only [BitVec.toNat_add, BitVec.toNat_ofNat] at this
        have ha := a.isLt
        omega
    | succ i =>
      rw [addr_succ]
      exact ih (s.writeByte a v) (a + 1) (by omega) i (by omega)

/-- A run of stores is the run of its first part and then that of the rest. -/
theorem State.writeRun_append (s : State) (a : Word) (bs cs : List Byte) :
    s.writeRun a (bs ++ cs) = (s.writeRun a bs).writeRun (a + BitVec.ofNat 16 bs.length) cs := by
  induction bs generalizing s a with
  | nil => simp [State.writeRun]
  | cons b bs ih => simp only [List.cons_append, State.writeRun, ih, List.length_cons, addr_succ]

@[simp] theorem State.readRun_length (s : State) (a : Word) (n : Nat) : (s.readRun a n).length = n := by
  induction n generalizing a with
  | zero => rfl
  | succ n ih => simp [State.readRun, ih]

/-- Byte `i` of a run read is the cell `i` above its start. -/
theorem State.readRun_getElem (s : State) (a : Word) (n i : Nat) (hi : i < (s.readRun a n).length) :
    (s.readRun a n)[i] = s.readByte (a + BitVec.ofNat 16 i) := by
  induction n generalizing a i with
  | zero => simp [State.readRun] at hi
  | succ n ih =>
    cases i with
    | zero => simp [State.readRun]
    | succ i =>
      simp only [State.readRun, List.getElem_cons_succ]
      rw [ih, addr_succ]

/-- A run read depends on the bytes alone. -/
theorem State.readRun_congr {s t : State} (h : ∀ a, t.readByte a = s.readByte a) (a : Word) (n : Nat) :
    t.readRun a n = s.readRun a n := by
  induction n generalizing a with
  | zero => rfl
  | succ n ih => simp [State.readRun, h, ih]

/-! ### Control outcomes -/

theorem advance_next {len : Nat} {s t : State} :
    advance len s = .next t ↔ t = s.setIC (s.ic + BitVec.ofNat 16 len) := by
  simp [advance, eq_comm]

theorem jumpAR_next {s t : State} : jumpAR s = .next t ↔ t = s.setIC s.ar := by
  simp [jumpAR, eq_comm]

theorem halt_next {s t : State} : halt s = .next t ↔ t = s.setHalted := by
  simp [halt, eq_comm]

/-- A conditional jump goes to AR if its condition holds and else moves on by its length (R137). -/
theorem jumpIf_next {cond : Bool} {len : Nat} {s t : State} :
    jumpIf cond len s = .next t ↔
      (cond = true ∧ t = s.setIC s.ar) ∨ (cond = false ∧ t = s.setIC (s.ic + BitVec.ofNat 16 len)) := by
  cases cond <;> simp [jumpIf, advance_next, jumpAR_next]

/-! ### Fetch -/

/-- What a successful fetch is: the byte at IC has a table entry, the operand bytes are those after it, and they
decode to the instruction (R67). -/
theorem fetch_ok {s : State} {g : Fetched} (h : fetch s = .ok g) :
    ∃ d rest, lookupOpcode (s.readByte s.ic) = some d ∧ g.opcode = s.readByte s.ic ∧
      g.operands = s.readRun (s.ic + 1) (d.format.length - 1) ∧
      decode (g.opcode :: g.operands) = .ok (g.instr, rest) := by
  unfold fetch at h
  dsimp only at h
  split at h
  · cases h
  · rename_i d hd
    split at h
    · rename_i i rest hdec
      cases h
      exact ⟨d, rest, hd, rfl, rfl, hdec⟩
    · cases h
    · cases h

/-- A fetch depends on IC and the bytes alone (R67). -/
theorem fetch_congr {s t : State} (hic : t.ic = s.ic) (h : ∀ a, t.readByte a = s.readByte a) : fetch t = fetch s := by
  simp only [fetch, raiseInvalidOpcode, hic, h, State.readRun_congr h]

/-! ### The step -/

/-- Every way a step answers a next state: an idle step of a halted core, or a fetched instruction that `exec` runs
to `u`, completed by the counters and the latch (R66 to R72). -/
theorem step_next_cases {s t : State} (h : step s = .next t) :
    (s.halted = true ∧ t = s) ∨
      (s.halted = false ∧ ∃ g u, fetch s = .ok g ∧ exec g.instr s = .next u ∧ t = u.complete g.opcode g.operands) := by
  unfold step at h
  split at h
  · cases h
    exact .inl ⟨‹_›, rfl⟩
  · rename_i hh
    refine .inr ⟨by simpa using hh, ?_⟩
    split at h
    · cases h
    · rename_i g hg
      split at h
      · rename_i u hu
        cases h
        exact ⟨g, u, hg, hu, rfl⟩
      · cases h
      · cases h

end Sys2Proof.Machine
end

