-- ==== Sys2Proof/Machine/GraphicsChip.lean ====
section
/-! DEFINITION. The graphics chip: a fixed mapping between pixels and memory cells plus host ports, with no state of
its own (spec/60_exceptions.md R152 to R158). A plane spends one byte per pixel (spec/90_conflicts.md C5). -/

namespace Sys2Proof.Machine

/-- First cell of the brightness plane (R36). -/
def brightnessStart : Word := 0xE000

/-- First cell of the colour/mode plane (R36). -/
def colorStart : Word := 0xF000

/-- The coordinate is in [1,64]×[1,64] (R153). -/
def coordinateOk (x y : Int) : Bool := decide (1 ≤ x) && decide (x ≤ 64) && decide (1 ≤ y) && decide (y ≤ 64)

/-- Port `pixelAddress`: row-major, 1-based, `planeStart + (y-1)*64 + (x-1)` in each plane; InvalidCoordinate outside
(R153, R144). -/
def pixelAddress (x y : Int) : Except Fault (Word × Word) :=
  if coordinateOk x y then
    .ok (brightnessStart + wrapAddr ((y - 1) * 64 + (x - 1)), colorStart + wrapAddr ((y - 1) * 64 + (x - 1)))
  else .error (.invalidCoordinate x y)

/-- The byte the chip writes for a boolean: 1 or 0 (R154). -/
def planeByte (b : Bool) : Byte := if b then 0x01 else 0x00

/-- Port `setPixel`: one byte (0 or 1) to each plane; out of range it fails and writes nothing (R154). -/
def setPixel (x y : Int) (brightness colorMode : Bool) (s : State) : Result :=
  match pixelAddress x y with
  | .error f => .fault f
  | .ok (ab, ac) => .next ((s.writeByte ab (planeByte brightness)).writeByte ac (planeByte colorMode))

/-- Port `getFrame`: the 8192 raw plane bytes in ascending address order, brightness plane first (R155, D15,
log 15). -/
def getFrame (s : State) : List Byte := s.readRun brightnessStart 8192

/-- Port `resetFrame`: 0x00 in every cell of both planes, the flag untouched (R158). -/
def resetFrame (s : State) : State := s.writeRun brightnessStart (List.replicate 8192 0x00)

/-- Port `updateFlag`, read: the flag is set when its cell is nonzero (R156, D8, log 4). -/
def updateFlag (s : State) : Bool := s.readByte s.cfg.flagAddr != 0x00

/-- Port `updateFlag`, write: FLAG_SET_VALUE for true, 0x00 for false (R156, D8, log 4). -/
def setUpdateFlag (v : Bool) (s : State) : State :=
  s.writeByte s.cfg.flagAddr (if v then s.cfg.flagSetValue else 0x00)

/-- The 8192 bytes of STARTUP_FRAME (R6, R181, log 6). -/
def startupFrameBytes (p : Params) : List Byte := (List.range 8192).map (fun k => p.startupFrame.getD k 0x00)

/-- The chip's part of init: the startup image, then the flag set (R158, R181). -/
def graphicsInit (s : State) : State := setUpdateFlag true (s.writeRun brightnessStart (startupFrameBytes s.cfg))

end Sys2Proof.Machine
end

