-- ==== Sys2Proof/Machine/IoChip.lean ====
section
/-! DEFINITION. The I/O chip: one memory cell, the joystick cell, and one host port (spec/60_exceptions.md R159, R163;
spec/10_state.md R24). -/

namespace Sys2Proof.Machine

/-- The five digital inputs of the joystick cell (R24). -/
inductive JoyInput where
  | up
  | down
  | left
  | right
  | fire
  deriving DecidableEq, Repr

/-- The bit number of each input in the joystick cell (R24, D9, log 5). -/
def joyBit (p : Params) : JoyInput → Fin 8
  | .up => p.joyBitUp
  | .down => p.joyBitDown
  | .left => p.joyBitLeft
  | .right => p.joyBitRight
  | .fire => p.joyBitFire

/-- Port `writeDigitalInput`: the whole byte modulo 256 replaces the cell (R163). -/
def writeDigitalInput (v : Int) (s : State) : State := s.writeByte s.cfg.joyAddr (wrapByte v)

/-- The raw level of one input as the cell holds it; which level means pressed is not in the spec (R24, N4, log 5). -/
def joyLevel (i : JoyInput) (s : State) : Bool := (s.readByte s.cfg.joyAddr).getLsbD (joyBit s.cfg i)

end Sys2Proof.Machine
end

