-- ==== Sys2Proof/Machine/Ports.lean ====
section
/-! DEFINITION. The machine wrapper and the host ports: init, load, step, the read-out ports and the host's moves
(spec/60_exceptions.md R160 to R167, spec/70_reset_and_hazards.md R180 to R185). The host acts only between steps
(spec/20_memory.md R38, D13, log 14). -/

namespace Sys2Proof.Machine

/-- Port `init`: the state of table R21, whatever the state before (R180). -/
def init (s : State) : State := State.resetWith s.cfg

/-- The CPU's `reset()` of R180 step 3. Init does not mirror the counters, so the tock cell is left at
TOCK_CELL_AT_INIT (D6, log 3). -/
def cpuReset (s : State) : State :=
  { s.writeByte s.cfg.tockAddr s.cfg.tockCellAtInit with
    r0 := 0x00, r1 := 0x00, r2 := 0x00, r3 := 0x00, ic := 0x0100, ar := 0x0000, tick := 0x00, tock := 0xFF,
    halted := false, li := none }

/-- Init as the sequence of writes of R180: I/O page 0x00, program area 0xFF, CPU reset, graphics chip init. -/
def initSequence (s : State) : State :=
  graphicsInit (cpuReset
    ((s.writeRun 0x0000 (List.replicate 0x100 0x00)).writeRun 0x0100 (List.replicate 0xDF00 0xFF)))

/-- Port `load`: the bytes verbatim from 0x0100 upward, addresses mod 65536, no bound; the CPU state is untouched
(R183, D12, log 13). -/
def load (bytes : List Byte) (s : State) : State := s.writeRun 0x0100 bytes

/-- The results of the step port (R65). -/
inductive StepResult where
  /-- An instruction was executed and R68 to R71 applied. -/
  | completed
  /-- The core was already halted (R66). -/
  | idle
  /-- The step raised a fault; no state changed (R140). -/
  | fault (f : Fault)
  /-- Not a result of the hardware: the model refused. No state leads here. -/
  | refused (r : Refusal)
  deriving DecidableEq, Repr

/-- Port `step`: the result, and the state the host finds afterwards, which after a fault is the state before it
(R65, R140, D14, log 12). -/
def stepPort (s : State) : StepResult × State :=
  if s.halted then (.idle, s)
  else
    match step s with
    | .next t => (.completed, t)
    | .fault f => (.fault f, s)
    | .refused r => (.refused r, s)

/-- Port `read` for any integer address (R164). -/
def readPort (a : Int) (s : State) : Byte := s.memRead a

/-- Port `readRange`: the bytes of cells first, …, last, both included; refused outside
0 <= first <= last <= 65535 (R164, U6, log 22). -/
def readRange (first last : Int) (s : State) : Except Refusal (List Byte) :=
  if 0 ≤ first ∧ first ≤ last ∧ last ≤ 65535 then .ok (s.readRun (wrapAddr first) (last - first + 1).toNat)
  else .error (.readRangeOutOfDomain first last)

/-- The register getters (R166): every register is a field of the state, read without side effect. -/
structure RegisterView where
  r0 : Byte
  r1 : Byte
  r2 : Byte
  r3 : Byte
  ic : Word
  ar : Word
  tick : Byte
  tock : Byte
  halted : Bool
  deriving DecidableEq, Repr

/-- Port: the registers (R166). -/
def registers (s : State) : RegisterView := ⟨s.r0, s.r1, s.r2, s.r3, s.ic, s.ar, s.tick, s.tock, s.halted⟩

/-- Port: the last executed instruction, mnemonic and operand bytes; `none` before the first completed step (R166,
D20, log 18). -/
def lastInstruction (s : State) : Option (String × List Byte) :=
  s.li.bind fun l => (lookupOpcode l.opcode).map fun d => (d.mnemonic, l.operands)

/-- What the host may do between two steps that acts on the machine (R167). The read ports change nothing. -/
inductive HostMove where
  | init
  | load (bytes : List Byte)
  | step
  | writeDigitalInput (v : Int)
  | setUpdateFlag (v : Bool)
  | setPixel (x y : Int) (brightness colorMode : Bool)
  | resetFrame
  deriving DecidableEq, Repr

/-- The effect of one move (R167). -/
def hostMove (m : HostMove) (s : State) : Result :=
  match m with
  | .init => .next (Sys2Proof.Machine.init s)
  | .load bytes => .next (Sys2Proof.Machine.load bytes s)
  | .step => Sys2Proof.Machine.step s
  | .writeDigitalInput v => .next (Sys2Proof.Machine.writeDigitalInput v s)
  | .setUpdateFlag v => .next (Sys2Proof.Machine.setUpdateFlag v s)
  | .setPixel x y b c => Sys2Proof.Machine.setPixel x y b c s
  | .resetFrame => .next (Sys2Proof.Machine.resetFrame s)

end Sys2Proof.Machine
end

