-- ==== Sys2Proof/Safety.lean ====
section
/-! DEFINITION. The terms claims are made in: the ends of a run (spec/70_reset_and_hazards.md R185), the invariant of
every reachable state (spec/10_state.md R22), runs without jump or halt (spec/40_execution_cycle.md R73). -/

namespace Sys2Proof.Machine

/-- The normal end: HLT was executed; every later step is idle (R185, R170). -/
abbrev Halted (s : State) : Prop := s.halted = true

/-- The abnormal end: the next step is the fault InvalidOpcode, and so is every later one (R185, R140). -/
def Faulted (s : State) : Prop := ∃ addr byte, step s = .fault (.invalidOpcode addr byte)

/-- The core can go on: it is not halted and an opcode stands at IC (R67). -/
abbrev CanRun (s : State) : Prop := s.halted = false ∧ (lookupOpcode (s.readByte s.ic)).isSome = true

/-- The latch holds nothing, or what an executed instruction leaves: an opcode of the table, its length, its operand
bytes (R18). -/
def latchWf : Option LastInstr → Bool
  | none => true
  | some l => l.wf && (lookupOpcode l.opcode).any (fun d => d.format.length == l.length)

/-- What holds of every reachable state: parameters within the bounds of R6, memory in its canonical form (the widths
of R22 are in the types), and a latch an instruction can leave. -/
def State.inv (s : State) : Bool := s.cfg.wf && Memory.wf s.cfg s.mem && latchWf s.li

/-- The mirror cells hold the counters, as after every completed step (R25, R70). -/
abbrev MirrorsHold (s : State) : Prop :=
  s.readByte s.cfg.tickAddr = s.tick ∧ s.readByte s.cfg.tockAddr = s.tock

/-- Every cell reads in `t` as in `s`. -/
abbrev CellsKept (s t : State) : Prop := ∀ a : Word, t.readByte a = s.readByte a

/-- Every cell but the listed ones reads in `t` as in `s`. -/
abbrev CellsKeptBut (cells : List Word) (s t : State) : Prop :=
  ∀ a : Word, a ∉ cells → t.readByte a = s.readByte a

/-- The answer with `f` applied to its state. Two answers equal under it differ at most in what `f` overwrites. -/
def mapNext (f : State → State) : Result → Result
  | .next t => .next (f t)
  | .fault r => .fault r
  | .refused r => .refused r

/-- The pair R1, R2 as the number of the arithmetic instructions, R1 low-order (R92). -/
def State.pairWord (s : State) : Nat := 256 * s.r2.toNat + s.r1.toNat

end Sys2Proof.Machine

namespace Sys2Proof

/-- The instruction leaves IC at AR when it runs in `s`: it is a jump whose condition holds (R137). -/
def Instr.jumpsIn (s : Machine.State) : Instr → Bool
  | .jmp => true
  | .jz0 => s.r0 == 0x00
  | .jgw => decide (s.r2.toNat < s.r1.toNat)
  | .jew => s.r1 == s.r2
  | .je0 op1 => s.r0 == op1
  | .nul | .mar _ _ | .sic | .rar | .aar | .ir0 | .a01 | .dr0 | .s01 | .x12 | .x01 | .sr0 | .srw | .lr0 | .lrw | .taw
  | .mr0 _ | .mrw _ _ | .or0 _ | .an0 _ | .c01 | .c02 | .irw | .drw | .x03 | .c03 | .c30 | .pl0 | .pr0 | .hlt => false

/-- The cells the instruction stores to when it runs in `s` (R120 to R122): the addresses its meaning computes. -/
def Instr.storesIn (s : Machine.State) : Instr → List Word
  | .sr0 => [Machine.effAddr s]
  | .sic | .srw => [Machine.effAddr s, Machine.effAddrNext s]
  | .nul | .mar _ _ | .rar | .aar | .ir0 | .a01 | .dr0 | .s01 | .x12 | .x01 | .jmp | .lr0 | .lrw | .taw | .mr0 _
  | .mrw _ _ | .jz0 | .jgw | .jew | .or0 _ | .an0 _ | .je0 _ | .c01 | .c02 | .irw | .drw | .x03 | .c03 | .c30 | .pl0
  | .pr0 | .hlt => []

namespace Machine

/-- `n` steps, none of which jumps or halts: the state after them and the lengths of the instructions run, in order;
`none` if a step jumps, halts or faults (R73). -/
def straightRun : Nat → State → Option (State × List Nat)
  | 0, s => some (s, [])
  | n + 1, s =>
    match fetch s, step s with
    | .ok g, .next t =>
      if s.halted || g.instr.jumpsIn s || g.instr == .hlt then none
      else (straightRun n t).map fun r => (r.1, (g.operands.length + 1) :: r.2)
    | _, _ => none

/-- `n` steps of the machine, stopping at the first fault (R185); `core.run` in the model's own types. -/
def runSteps : Nat → State → Result
  | 0, s => .next s
  | n + 1, s =>
    match step s with
    | .next t => runSteps n t
    | .fault f => .fault f
    | .refused r => .refused r

/-- The state after one move of the host. A move that fails changes nothing (R140, R144). -/
def hostAfter (s : State) (m : HostMove) : State :=
  match hostMove m s with
  | .next t => t
  | .fault _ => s
  | .refused _ => s

/-- The state after the host's moves in turn (R167). -/
def hostRun (s : State) (ms : List HostMove) : State := ms.foldl hostAfter s

end Machine
end Sys2Proof
end

