-- ==== Sys2Proof/Laws/Run.lean ====
section
/-! SUPPORT. Runs of steps: their unfolding, and that they are the host's `core.run`. -/

namespace Sys2Proof.Machine

@[simp] theorem runSteps_zero (s : State) : runSteps 0 s = .next s := rfl

theorem runSteps_succ_of_next {n : Nat} {s t : State} (h : step s = .next t) : runSteps (n + 1) s = runSteps n t := by
  simp only [runSteps, h]

/-- A run of `n + 1` steps that answers a next state took a first step. -/
theorem runSteps_succ_next {n : Nat} {s t : State} (h : runSteps (n + 1) s = .next t) :
    ∃ u, step s = .next u ∧ runSteps n u = .next t := by
  simp only [runSteps] at h
  split at h
  · exact ⟨_, ‹_›, h⟩
  · cases h
  · cases h

/-- The host's run of the core is the model's. -/
theorem core_run_eq_runSteps (n : Nat) (s : State) : Host.Core.run Sys2Proof.core n s = runSteps n s := by
  induction n generalizing s with
  | zero => rfl
  | succ n ih =>
    cases hs : step s with
    | next t =>
      have hc : Sys2Proof.core.step s = .next t := hs
      simp only [Host.Core.run, runSteps, hc, hs]
      exact ih t
    | fault f =>
      have hc : Sys2Proof.core.step s = .fault f := hs
      simp only [Host.Core.run, runSteps, hc, hs]
      rfl
    | refused r =>
      have hc : Sys2Proof.core.step s = .refused r := hs
      simp only [Host.Core.run, runSteps, hc, hs]
      rfl

end Sys2Proof.Machine
end

