-- ==== Sys2Proof/Certificates/Slice0/Obligations.lean ====
section
/-! DEFINITION. The statements for the provers. Every result statement also says what the instruction leaves
unchanged: `t = { s with … }` names every field that may differ, and `CellsKept` says that every byte reads as before.
`exec` covers phases 4 and 5 of the step; the counters, their mirror cells and the latch are the step's (log 25). -/

open Sys2Proof Sys2Proof.Machine

/-! ### Address register -/

/-- 41_address_register.md R80. -/
def Obligations.MarLoadsImmediateIntoAR : Prop :=
  ∀ (s : State) (op1 op2 : Byte), encode (.mar op1 op2) = [0x01, op1, op2] ∧
    ∃ t, exec (.mar op1 op2) s = .next t ∧ t.ar.toNat = op1.toNat + 256 * op2.toNat ∧
      t.ic.toNat = (s.ic.toNat + 3) % 65536 ∧ t = { s with ar := t.ar, ic := t.ic } ∧ CellsKept s t

/-- 41_address_register.md R81. -/
def Obligations.RarLoadsPairIntoAR : Prop :=
  encode .rar = [0x03] ∧ ∀ s : State,
    ∃ t, exec .rar s = .next t ∧ t.ar.toNat = 256 * s.r1.toNat + s.r2.toNat ∧
      t.ic.toNat = (s.ic.toNat + 1) % 65536 ∧ t = { s with ar := t.ar, ic := t.ic } ∧ CellsKept s t

/-- 41_address_register.md R82. -/
def Obligations.AarAddsR0ToAR : Prop :=
  encode .aar = [0x04] ∧ ∀ s : State,
    ∃ t, exec .aar s = .next t ∧ t.ar.toNat = (s.ar.toNat + s.r0.toNat) % 65536 ∧
      t.ic.toNat = (s.ic.toNat + 1) % 65536 ∧ t = { s with ar := t.ar, ic := t.ic } ∧ CellsKept s t

/-- 41_address_register.md R83. -/
def Obligations.TawCopiesARIntoPair : Prop :=
  encode .taw = [0x16] ∧ ∀ s : State,
    ∃ t, exec .taw s = .next t ∧ t.r1.toNat = s.ar.toNat / 256 ∧ t.r2.toNat = s.ar.toNat % 256 ∧
      t.ic.toNat = (s.ic.toNat + 1) % 65536 ∧ t = { s with r1 := t.r1, r2 := t.r2, ic := t.ic } ∧ CellsKept s t

/-- R81 and R83, what the spec derives from them: RAR and TAW are exact inverses, with whatever the registers they
write held in between. -/
def Obligations.RarAndTawAreInverses : Prop :=
  ∀ (s : State) (a : Word),
    (∃ t u, exec .taw s = .next t ∧ exec .rar { t with ar := a } = .next u ∧ u.ar = s.ar) ∧
    ∀ x y : Byte, ∃ t u, exec .rar s = .next t ∧ exec .taw { t with r1 := x, r2 := y } = .next u ∧
      u.r1 = s.r1 ∧ u.r2 = s.r2

/-! ### Arithmetic -/

/-- 42_arithmetic.md R90 and R91. -/
def Obligations.Ir0AndDr0Saturate : Prop :=
  encode .ir0 = [0x05] ∧ encode .dr0 = [0x07] ∧ ∀ s : State,
    (∃ t, exec .ir0 s = .next t ∧ t.r0.toNat = min 255 (s.r0.toNat + 1) ∧
      t.ic.toNat = (s.ic.toNat + 1) % 65536 ∧ t = { s with r0 := t.r0, ic := t.ic } ∧ CellsKept s t) ∧
    ∃ t, exec .dr0 s = .next t ∧ t.r0.toNat = s.r0.toNat - 1 ∧
      t.ic.toNat = (s.ic.toNat + 1) % 65536 ∧ t = { s with r0 := t.r0, ic := t.ic } ∧ CellsKept s t

/-- 42_arithmetic.md R92 and R94: the three branches of each. -/
def Obligations.A01AndIrwCarryIntoR2 : Prop :=
  encode .a01 = [0x06] ∧ encode .irw = [0x27] ∧ ∀ s : State,
    (∃ t, exec .a01 s = .next t ∧
      (if s.r1.toNat + s.r0.toNat ≤ 255 then t.r1.toNat = s.r1.toNat + s.r0.toNat ∧ t.r2 = s.r2
       else if s.r2 ≠ 0xFF then t.r1.toNat = s.r1.toNat + s.r0.toNat - 256 ∧ t.r2.toNat = s.r2.toNat + 1
       else t.r1 = 0xFF ∧ t.r2 = 0xFF) ∧
      t.ic.toNat = (s.ic.toNat + 1) % 65536 ∧ t = { s with r1 := t.r1, r2 := t.r2, ic := t.ic } ∧ CellsKept s t) ∧
    ∃ t, exec .irw s = .next t ∧
      (if s.r1 ≠ 0xFF then t.r1.toNat = s.r1.toNat + 1 ∧ t.r2 = s.r2
       else if s.r2 ≠ 0xFF then t.r1 = 0x00 ∧ t.r2.toNat = s.r2.toNat + 1
       else t.r1 = 0xFF ∧ t.r2 = 0xFF) ∧
      t.ic.toNat = (s.ic.toNat + 1) % 65536 ∧ t = { s with r1 := t.r1, r2 := t.r2, ic := t.ic } ∧ CellsKept s t

/-- R92 and R94, what the spec derives from them: on W = 256·R2 + R1 both are saturating 16-bit additions. -/
def Obligations.A01AndIrwAreSaturatingWordAdditions : Prop :=
  ∀ s : State,
    (∃ t, exec .a01 s = .next t ∧ t.pairWord = min 65535 (s.pairWord + s.r0.toNat)) ∧
    ∃ t, exec .irw s = .next t ∧ t.pairWord = min 65535 (s.pairWord + 1)

/-- 42_arithmetic.md R93 and R95: the three branches of each. That R1 becomes the magnitude on a borrow (0x01 for DRW)
rests on the spec's own decision D7 (log 11). -/
def Obligations.S01AndDrwBorrowFromR2 : Prop :=
  encode .s01 = [0x08] ∧ encode .drw = [0x28] ∧ ∀ s : State,
    (∃ t, exec .s01 s = .next t ∧
      (if s.r0.toNat ≤ s.r1.toNat then t.r1.toNat = s.r1.toNat - s.r0.toNat ∧ t.r2 = s.r2
       else if s.r2 ≠ 0x00 then t.r1.toNat = s.r0.toNat - s.r1.toNat ∧ t.r2.toNat = s.r2.toNat - 1
       else t.r1 = 0x00 ∧ t.r2 = 0x00) ∧
      t.ic.toNat = (s.ic.toNat + 1) % 65536 ∧ t = { s with r1 := t.r1, r2 := t.r2, ic := t.ic } ∧ CellsKept s t) ∧
    ∃ t, exec .drw s = .next t ∧
      (if s.r1 ≠ 0x00 then t.r1.toNat = s.r1.toNat - 1 ∧ t.r2 = s.r2
       else if s.r2 ≠ 0x00 then t.r1 = 0x01 ∧ t.r2.toNat = s.r2.toNat - 1
       else t.r1 = 0x00 ∧ t.r2 = 0x00) ∧
      t.ic.toNat = (s.ic.toNat + 1) % 65536 ∧ t = { s with r1 := t.r1, r2 := t.r2, ic := t.ic } ∧ CellsKept s t

/-- 95_test_vectors.md part 2.2 and claim 6, from R93 and R95 with decision D7 (log 11): exactly when S01 and DRW
differ from a saturating 16-bit subtraction on W. -/
def Obligations.S01AndDrwDifferFromWordSubtraction : Prop :=
  ∀ s : State,
    (∃ t, exec .s01 s = .next t ∧
      (t.pairWord ≠ s.pairWord - s.r0.toNat ↔
        s.r2 ≠ 0x00 ∧ s.r1.toNat < s.r0.toNat ∧ s.r0.toNat - s.r1.toNat ≠ 128)) ∧
    ∃ t, exec .drw s = .next t ∧ (t.pairWord ≠ s.pairWord - 1 ↔ s.r2 ≠ 0x00 ∧ s.r1 = 0x00)

/-! ### Logic and shift -/

/-- 43_logic_shift.md R100 and R101, bit by bit. -/
def Obligations.Or0AndAn0AreBitwise : Prop :=
  ∀ (s : State) (op1 : Byte), encode (.or0 op1) = [0x22, op1] ∧ encode (.an0 op1) = [0x23, op1] ∧
    (∃ t, exec (.or0 op1) s = .next t ∧ (∀ i < 8, t.r0.getLsbD i = (s.r0.getLsbD i || op1.getLsbD i)) ∧
      t.ic.toNat = (s.ic.toNat + 2) % 65536 ∧ t = { s with r0 := t.r0, ic := t.ic } ∧ CellsKept s t) ∧
    ∃ t, exec (.an0 op1) s = .next t ∧ (∀ i < 8, t.r0.getLsbD i = (s.r0.getLsbD i && op1.getLsbD i)) ∧
      t.ic.toNat = (s.ic.toNat + 2) % 65536 ∧ t = { s with r0 := t.r0, ic := t.ic } ∧ CellsKept s t

/-- 43_logic_shift.md R102 and R103. -/
def Obligations.Pl0AndPr0ShiftByOne : Prop :=
  encode .pl0 = [0x2C] ∧ encode .pr0 = [0x2D] ∧ ∀ s : State,
    (∃ t, exec .pl0 s = .next t ∧ t.r0.toNat = 2 * s.r0.toNat % 256 ∧
      t.ic.toNat = (s.ic.toNat + 1) % 65536 ∧ t = { s with r0 := t.r0, ic := t.ic } ∧ CellsKept s t) ∧
    ∃ t, exec .pr0 s = .next t ∧ t.r0.toNat = s.r0.toNat / 2 ∧
      t.ic.toNat = (s.ic.toNat + 1) % 65536 ∧ t = { s with r0 := t.r0, ic := t.ic } ∧ CellsKept s t

/-! ### Moves -/

/-- 44_moves.md R110 and R111. -/
def Obligations.Mr0AndMrwLoadImmediates : Prop :=
  ∀ (s : State) (op1 op2 : Byte), encode (.mr0 op1) = [0x17, op1] ∧ encode (.mrw op1 op2) = [0x18, op1, op2] ∧
    (∃ t, exec (.mr0 op1) s = .next t ∧ t.ic.toNat = (s.ic.toNat + 2) % 65536 ∧
      t = { s with r0 := op1, ic := t.ic } ∧ CellsKept s t) ∧
    ∃ t, exec (.mrw op1 op2) s = .next t ∧ t.ic.toNat = (s.ic.toNat + 3) % 65536 ∧
      t = { s with r1 := op1, r2 := op2, ic := t.ic } ∧ CellsKept s t

/-- 44_moves.md R112, R113 and R114. -/
def Obligations.SwapsExchangeTwoRegisters : Prop :=
  encode .x12 = [0x09] ∧ encode .x01 = [0x10] ∧ encode .x03 = [0x29] ∧ ∀ s : State,
    (∃ t, exec .x12 s = .next t ∧ t.ic.toNat = (s.ic.toNat + 1) % 65536 ∧
      t = { s with r1 := s.r2, r2 := s.r1, ic := t.ic } ∧ CellsKept s t) ∧
    (∃ t, exec .x01 s = .next t ∧ t.ic.toNat = (s.ic.toNat + 1) % 65536 ∧
      t = { s with r0 := s.r1, r1 := s.r0, ic := t.ic } ∧ CellsKept s t) ∧
    ∃ t, exec .x03 s = .next t ∧ t.ic.toNat = (s.ic.toNat + 1) % 65536 ∧
      t = { s with r0 := s.r3, r3 := s.r0, ic := t.ic } ∧ CellsKept s t

/-- 44_moves.md R115, R116, R117 and R118. -/
def Obligations.CopiesWriteTheDestinationOnly : Prop :=
  encode .c01 = [0x25] ∧ encode .c02 = [0x26] ∧ encode .c03 = [0x2A] ∧ encode .c30 = [0x2B] ∧ ∀ s : State,
    (∃ t, exec .c01 s = .next t ∧ t.ic.toNat = (s.ic.toNat + 1) % 65536 ∧
      t = { s with r1 := s.r0, ic := t.ic } ∧ CellsKept s t) ∧
    (∃ t, exec .c02 s = .next t ∧ t.ic.toNat = (s.ic.toNat + 1) % 65536 ∧
      t = { s with r2 := s.r0, ic := t.ic } ∧ CellsKept s t) ∧
    (∃ t, exec .c03 s = .next t ∧ t.ic.toNat = (s.ic.toNat + 1) % 65536 ∧
      t = { s with r3 := s.r0, ic := t.ic } ∧ CellsKept s t) ∧
    ∃ t, exec .c30 s = .next t ∧ t.ic.toNat = (s.ic.toNat + 1) % 65536 ∧
      t = { s with r0 := s.r3, ic := t.ic } ∧ CellsKept s t

/-! ### Loads and stores -/

/-- 45_load_store.md R120, for either value of SIC_LOW_FIRST. That the stored value is the address of SIC's own opcode
is the spec's decision D3 (log 8). -/
def Obligations.SicStoresItsOwnAddress : Prop :=
  encode .sic = [0x02] ∧ ∀ s : State,
    ∃ t, exec .sic s = .next t ∧ effAddr s = s.ar ∧ (effAddrNext s).toNat = (s.ar.toNat + 1) % 65536 ∧
      (if s.cfg.sicLowFirst then
        (t.readByte (effAddr s)).toNat = s.ic.toNat % 256 ∧ (t.readByte (effAddrNext s)).toNat = s.ic.toNat / 256
       else
        (t.readByte (effAddr s)).toNat = s.ic.toNat / 256 ∧ (t.readByte (effAddrNext s)).toNat = s.ic.toNat % 256) ∧
      t.ic.toNat = (s.ic.toNat + 1) % 65536 ∧ t = { s with ic := t.ic, mem := t.mem } ∧
      CellsKeptBut [effAddr s, effAddrNext s] s t

/-- 45_load_store.md R121. -/
def Obligations.Sr0StoresR0 : Prop :=
  encode .sr0 = [0x12] ∧ ∀ s : State,
    ∃ t, exec .sr0 s = .next t ∧ effAddr s = s.ar ∧ t.readByte (effAddr s) = s.r0 ∧
      t.ic.toNat = (s.ic.toNat + 1) % 65536 ∧ t = { s with ic := t.ic, mem := t.mem } ∧
      CellsKeptBut [effAddr s] s t

/-- 45_load_store.md R122. -/
def Obligations.SrwStoresThePair : Prop :=
  encode .srw = [0x13] ∧ ∀ s : State,
    ∃ t, exec .srw s = .next t ∧ effAddr s = s.ar ∧ (effAddrNext s).toNat = (s.ar.toNat + 1) % 65536 ∧
      t.readByte (effAddr s) = s.r1 ∧ t.readByte (effAddrNext s) = s.r2 ∧
      t.ic.toNat = (s.ic.toNat + 1) % 65536 ∧ t = { s with ic := t.ic, mem := t.mem } ∧
      CellsKeptBut [effAddr s, effAddrNext s] s t

/-- 45_load_store.md R123 and R124. -/
def Obligations.Lr0AndLrwLoadFromAR : Prop :=
  encode .lr0 = [0x14] ∧ encode .lrw = [0x15] ∧ ∀ s : State,
    effAddr s = s.ar ∧ (effAddrNext s).toNat = (s.ar.toNat + 1) % 65536 ∧
    (∃ t, exec .lr0 s = .next t ∧ t.ic.toNat = (s.ic.toNat + 1) % 65536 ∧
      t = { s with r0 := s.readByte (effAddr s), ic := t.ic } ∧ CellsKept s t) ∧
    ∃ t, exec .lrw s = .next t ∧ t.ic.toNat = (s.ic.toNat + 1) % 65536 ∧
      t = { s with r1 := s.readByte (effAddr s), r2 := s.readByte (effAddrNext s), ic := t.ic } ∧ CellsKept s t

/-- R122 and R124, "LRW is the exact inverse of SRW at the same AR", whatever the pair held in between. -/
def Obligations.LrwUndoesSrwAtTheSameAR : Prop :=
  ∀ (s : State) (x y : Byte), ∃ t u, exec .srw s = .next t ∧ exec .lrw { t with r1 := x, r2 := y } = .next u ∧
    u.r1 = s.r1 ∧ u.r2 = s.r2 ∧ u.ar = s.ar ∧ CellsKept t u

/-! ### Control -/

/-- 46_control.md R130 and R131. -/
def Obligations.NulAdvancesAndJmpJumps : Prop :=
  encode .nul = [0x00] ∧ encode .jmp = [0x11] ∧ ∀ s : State,
    (∃ t, exec .nul s = .next t ∧ t.ic.toNat = (s.ic.toNat + 1) % 65536 ∧ t = { s with ic := t.ic } ∧ CellsKept s t) ∧
    ∃ t, exec .jmp s = .next t ∧ t = { s with ic := s.ar } ∧ CellsKept s t

/-- 46_control.md R132, R133, R134 and R135. -/
def Obligations.ConditionalJumpsTestRegisters : Prop :=
  ∀ (s : State) (op1 : Byte),
    encode .jz0 = [0x19] ∧ encode .jgw = [0x20] ∧ encode .jew = [0x21] ∧ encode (.je0 op1) = [0x24, op1] ∧
    (∃ t, exec .jz0 s = .next t ∧
      t.ic.toNat = (if s.r0.toNat = 0 then s.ar.toNat else (s.ic.toNat + 1) % 65536) ∧
      t = { s with ic := t.ic } ∧ CellsKept s t) ∧
    (∃ t, exec .jgw s = .next t ∧
      t.ic.toNat = (if s.r1.toNat > s.r2.toNat then s.ar.toNat else (s.ic.toNat + 1) % 65536) ∧
      t = { s with ic := t.ic } ∧ CellsKept s t) ∧
    (∃ t, exec .jew s = .next t ∧
      t.ic.toNat = (if s.r1.toNat = s.r2.toNat then s.ar.toNat else (s.ic.toNat + 1) % 65536) ∧
      t = { s with ic := t.ic } ∧ CellsKept s t) ∧
    ∃ t, exec (.je0 op1) s = .next t ∧
      t.ic.toNat = (if s.r0.toNat = op1.toNat then s.ar.toNat else (s.ic.toNat + 2) % 65536) ∧
      t = { s with ic := t.ic } ∧ CellsKept s t

/-- 46_control.md R136. That IC stays on the HLT opcode is the spec's decision D4 (log 9). -/
def Obligations.HltSetsHaltedAndKeepsIC : Prop :=
  encode .hlt = [0xFF] ∧ ∀ s : State,
    ∃ t, exec .hlt s = .next t ∧ t = { s with halted := true } ∧ CellsKept s t

/-- R136 with R70 and R71: the step that executes HLT is a completed step (the spec's decision D5, log 10). -/
def Obligations.HltStepIsACompletedStep : Prop :=
  ∀ s : State, s.halted = false → s.readByte s.ic = 0xFF → s.cfg.wf = true →
    ∃ t, step s = .next t ∧ t.halted = true ∧ t.ic = s.ic ∧ t.tick.toNat = (s.tick.toNat + 1) % 256 ∧
      t.tock.toNat = s.tock.toNat - 1 ∧ t.li = some ⟨0xFF, 1, []⟩ ∧ MirrorsHold t ∧
      t = { s with halted := true, tick := t.tick, tock := t.tock, li := t.li, mem := t.mem } ∧
      CellsKeptBut [s.cfg.tickAddr, s.cfg.tockAddr] s t

/-! ### Every instruction -/

/-- R143: once decoded, an instruction cannot stop: every meaning answers a next state, in every state. -/
def Obligations.EveryInstructionCompletes : Prop :=
  ∀ (i : Instr) (s : State), ∃ t, exec i s = .next t

/-- R69 and R137 (with decision D4 for HLT, log 9): exactly one of the three control outcomes happens. -/
def Obligations.InstructionAppliesOneControlOutcome : Prop :=
  ∀ (i : Instr) (s t : State), exec i s = .next t →
    t.ic.toNat = (if i = .hlt then s.ic.toNat
      else if i.jumpsIn s = true then s.ar.toNat
      else (s.ic.toNat + (encode i).length) % 65536) ∧
    (t.halted = true ↔ s.halted = true ∨ i = .hlt)

/-- R11, the "written by" column, by opcode: an instruction not listed for a register leaves it. HLT alone sets halted
(R16, R138), no instruction touches the counters, the latch or the parameters (R14, R15, R18), and, the memory clause,
the cells an instruction does not store to keep their bytes (R30, R32, R120 to R122: SR0 stores at AR, SRW and SIC at
AR and AR+1, no other instruction stores). -/
def Obligations.OnlyListedInstructionsWrite : Prop :=
  ∀ (i : Instr) (s t : State), exec i s = .next t →
    (i.opcode ∉ [0x05#8, 0x07, 0x10, 0x14, 0x17, 0x22, 0x23, 0x29, 0x2B, 0x2C, 0x2D] → t.r0 = s.r0) ∧
    (i.opcode ∉ [0x06#8, 0x08, 0x09, 0x10, 0x15, 0x16, 0x18, 0x25, 0x27, 0x28] → t.r1 = s.r1) ∧
    (i.opcode ∉ [0x06#8, 0x08, 0x09, 0x15, 0x16, 0x18, 0x26, 0x27, 0x28] → t.r2 = s.r2) ∧
    (i.opcode ∉ [0x29#8, 0x2A] → t.r3 = s.r3) ∧
    (i.opcode ∉ [0x01#8, 0x03, 0x04] → t.ar = s.ar) ∧
    (i.opcode ≠ 0xFF → t.halted = s.halted) ∧
    t.tick = s.tick ∧ t.tock = s.tock ∧ t.li = s.li ∧ t.cfg = s.cfg ∧
    CellsKeptBut (i.storesIn s) s t

/-- R11, the "read by" column, by opcode: in an instruction not listed, the register's value reaches nothing but the
register itself; and where such an instruction writes the register, not even that: the answer is the same whatever the
register held. -/
def Obligations.OnlyListedInstructionsRead : Prop :=
  ∀ (i : Instr) (s : State) (x y : Byte) (a b : Word),
    (i.opcode ∉ [0x04#8, 0x05, 0x06, 0x07, 0x08, 0x10, 0x12, 0x19, 0x22, 0x23, 0x24, 0x25, 0x26, 0x29, 0x2A, 0x2C, 0x2D]
      → mapNext (·.setR0 y) (exec i (s.setR0 x)) = mapNext (·.setR0 y) (exec i s)) ∧
    (i.opcode ∈ [0x14#8, 0x17, 0x2B] → exec i (s.setR0 x) = exec i s) ∧
    (i.opcode ∉ [0x03#8, 0x06, 0x08, 0x09, 0x10, 0x13, 0x20, 0x21, 0x27, 0x28]
      → mapNext (·.setR1 y) (exec i (s.setR1 x)) = mapNext (·.setR1 y) (exec i s)) ∧
    (i.opcode ∈ [0x15#8, 0x16, 0x18, 0x25] → exec i (s.setR1 x) = exec i s) ∧
    (i.opcode ∉ [0x03#8, 0x06, 0x08, 0x09, 0x13, 0x20, 0x21, 0x27, 0x28]
      → mapNext (·.setR2 y) (exec i (s.setR2 x)) = mapNext (·.setR2 y) (exec i s)) ∧
    (i.opcode ∈ [0x15#8, 0x16, 0x18, 0x26] → exec i (s.setR2 x) = exec i s) ∧
    (i.opcode ∉ [0x29#8, 0x2B]
      → mapNext (·.setR3 y) (exec i (s.setR3 x)) = mapNext (·.setR3 y) (exec i s)) ∧
    (i.opcode ∈ [0x2A#8] → exec i (s.setR3 x) = exec i s) ∧
    (i.opcode ∉ [0x02#8, 0x04, 0x11, 0x12, 0x13, 0x14, 0x15, 0x16, 0x19, 0x20, 0x21, 0x24]
      → mapNext (·.setAR b) (exec i (s.setAR a)) = mapNext (·.setAR b) (exec i s)) ∧
    (i.opcode ∈ [0x01#8, 0x03] → exec i (s.setAR a) = exec i s) ∧
    (i.opcode ≠ 0x02 → mapNext (·.setIC b) (exec i (s.setIC a)) = mapNext (·.setIC b) (exec i s))

/-! ### The step -/

/-- R67 to R71: a step on bytes that decode to a well-formed instruction is `exec` of it, then the counters, their
mirror cells (tick, then tock) and the latch. That the step of HLT counts and latches too is the spec's decision D5
(log 10); that the mirror writes follow the instruction's stores, tick before tock, is its decisions D19 and D24
(log 17). -/
def Obligations.StepRunsTheDecodedInstruction : Prop :=
  ∀ (s : State) (i : Instr) (rest : List Byte), s.halted = false →
    decode [s.readByte s.ic, s.readByte (s.ic + 1), s.readByte (s.ic + 2)] = .ok (i, rest) → i.wf = true →
    ∃ u t, exec i s = .next u ∧ step s = .next t ∧
      t.tick.toNat = (u.tick.toNat + 1) % 256 ∧ t.tock.toNat = u.tock.toNat - 1 ∧
      t.li = some ⟨i.opcode, (encode i).length, i.operands⟩ ∧
      t = { u with tick := t.tick, tock := t.tock, li := t.li, mem := t.mem } ∧
      ∀ a : Word, t.readByte a =
        if a = u.cfg.tockAddr then t.tock else if a = u.cfg.tickAddr then t.tick else u.readByte a

/-- R66 and the law "HLT idempotence" (idle, not a fault: the spec's decision D18, log 16), over any number of steps;
and R170, nothing but init wakes the core: every other move of the host changes memory at most. -/
def Obligations.HaltedCoreNeverChanges : Prop :=
  ∀ (n : Nat) (s : State), s.halted = true → runSteps n s = .next s ∧ stepPort s = (.idle, s) ∧
    (∀ m : HostMove, m ≠ .init → hostAfter s m = { s with mem := (hostAfter s m).mem }) ∧
    (hostAfter s .init).halted = false

/-- R54, R67 and R140 (no state changes: the spec's decision D14, log 12): on each invalid byte the step is the fault
with IC and the byte, the host finds the state as it was, and stepping again gives the same. -/
def Obligations.InvalidOpcodeFaultsForEver : Prop :=
  ∀ s : State, s.halted = false →
    ((0x0A ≤ (s.readByte s.ic).toNat ∧ (s.readByte s.ic).toNat ≤ 0x0F) ∨
      (0x1A ≤ (s.readByte s.ic).toNat ∧ (s.readByte s.ic).toNat ≤ 0x1F) ∨
      (0x2E ≤ (s.readByte s.ic).toNat ∧ (s.readByte s.ic).toNat ≤ 0xFE)) →
    step s = .fault (.invalidOpcode s.ic (s.readByte s.ic)) ∧
      stepPort s = (.fault (.invalidOpcode s.ic (s.readByte s.ic)), s) ∧
      stepPort (stepPort s).2 = stepPort s

/-- R142 and R143: InvalidOpcode at a byte without a table entry is the only way a step stops; it never refuses; in
every other state it answers a next state. That a halted core's step is no fault is the spec's decision D18
(log 16). -/
def Obligations.StepStopsOnlyOnInvalidOpcode : Prop :=
  ∀ s : State, (∀ r, step s ≠ .refused r) ∧
    (∀ f, step s = .fault f ↔
      s.halted = false ∧ lookupOpcode (s.readByte s.ic) = none ∧ f = .invalidOpcode s.ic (s.readByte s.ic)) ∧
    (CanRun s → ∃ t, step s = .next t)

/-- R14 with R70. That the step of HLT is counted is the spec's decision D5 (log 10); that the cell is a one-way copy,
written after the instruction's own stores, is its decisions D19 and D24 (log 17). -/
def Obligations.TickCountsCompletedSteps : Prop :=
  State.reset.tick = 0x00 ∧
  (∀ s t : State, s.cfg.wf = true → s.halted = false → step s = .next t →
    t.tick.toNat = (s.tick.toNat + 1) % 256 ∧ t.readByte t.cfg.tickAddr = t.tick) ∧
  ∀ (i : Instr) (s : State) (x : Byte),
    exec i { s with tick := x } = mapNext (fun t => { t with tick := x }) (exec i s)

/-- R15 with R70, and the count R15 derives from R21: from 0xFF, tock is 0 exactly from the 255th completed step on.
That the step of HLT is counted is the spec's decision D5 (log 10); that the cell is a one-way copy, written after the
instruction's own stores and the tick cell, is its decisions D19 and D24 (log 17). -/
def Obligations.TockCountsDownAndHolds : Prop :=
  State.reset.tock = 0xFF ∧
  (∀ s t : State, s.halted = false → step s = .next t →
    t.tock.toNat = (if s.tock.toNat = 0 then 0 else s.tock.toNat - 1) ∧ t.readByte t.cfg.tockAddr = t.tock) ∧
  (∀ (n : Nat) (s t : State), s.tock = 0xFF → runSteps n s = .next t → t.halted = false →
    (t.tock = 0x00 ↔ 255 ≤ n)) ∧
  ∀ (i : Instr) (s : State) (x : Byte),
    exec i { s with tock := x } = mapNext (fun t => { t with tock := x }) (exec i s)

/-- R73, what the spec derives: the counters after n completed steps, from any state (a run whose last state is not
halted has had no idle step). -/
def Obligations.CountersAfterAnyRun : Prop :=
  ∀ (n : Nat) (s t : State), runSteps n s = .next t → t.halted = false →
    t.tick.toNat = (s.tick.toNat + n) % 256 ∧ t.tock.toNat = s.tock.toNat - n

/-- R73: after N steps that neither jump nor halt, IC is the start plus the sum of the lengths, mod 65536. -/
def Obligations.StraightRunAdvancesByTheLengths : Prop :=
  ∀ (n : Nat) (s t : State) (lens : List Nat), straightRun n s = some (t, lens) →
    lens.length = n ∧ (∀ l ∈ lens, 1 ≤ l ∧ l ≤ 3) ∧ t.ic.toNat = (s.ic.toNat + lens.sum) % 65536

/-- 10_state.md R16: false after reset, set by HLT alone, cleared by init alone (no step and no other move of the host,
R167, changes it), and while it is set a step does nothing (idle and no fault: the spec's decision D18, log 16); no
instruction reads it, no cell shows it, and the host reads it through the register port. -/
def Obligations.HaltedIsSetByHltAlone : Prop :=
  State.reset.halted = false ∧ (∀ s : State, (Sys2Proof.Machine.init s).halted = false) ∧
  (∀ s t : State, step s = .next t →
    (s.halted = true → t = s) ∧ (s.halted = false → (t.halted = true ↔ s.readByte s.ic = 0xFF))) ∧
  (∀ s : State, s.halted = true → step s = .next s) ∧
  (∀ (s : State) (m : HostMove), m ≠ .init → m ≠ .step → (hostAfter s m).halted = s.halted) ∧
  (∀ (i : Instr) (s : State) (b : Bool), i ≠ .hlt →
    exec i { s with halted := b } = mapNext (fun t => { t with halted := b }) (exec i s)) ∧
  (∀ (s : State) (b : Bool), exec .hlt { s with halted := b } = exec .hlt s) ∧
  ∀ s : State, (registers s).halted = s.halted ∧
    ∀ (b : Bool) (a : Word), State.readByte { s with halted := b } a = s.readByte a

/-- R37 and R33: a completed step changes no cell but those its instruction stores to and the two mirror cells. -/
def Obligations.StepWritesOnlyStoresAndMirrors : Prop :=
  ∀ (s t : State) (g : Fetched), s.halted = false → fetch s = .ok g → step s = .next t →
    t.cfg = s.cfg ∧ CellsKeptBut (s.cfg.tickAddr :: s.cfg.tockAddr :: g.instr.storesIn s) s t

/-- R18: the latch does not influence execution. -/
def Obligations.LatchDoesNotInfluenceTheStep : Prop :=
  ∀ (s : State) (l l' : Option LastInstr),
    mapNext (fun t => { t with li := l' }) (step { s with li := l }) = mapNext (fun t => { t with li := l' }) (step s)

/-- R41: a store is seen by the very next fetch. SR0 aimed at the next opcode byte puts a one-byte instruction there,
and the next step fetches it. -/
def Obligations.StoreIsSeenByTheNextFetch : Prop :=
  ∀ (s : State) (i : Instr), s.halted = false → s.readByte s.ic = 0x12 → s.ar = s.ic + 1 → s.r0 = i.opcode →
    i.operands = [] → s.ar ≠ s.cfg.tickAddr → s.ar ≠ s.cfg.tockAddr →
    ∃ t, step s = .next t ∧ t.halted = false ∧ t.ic = s.ar ∧ fetch t = .ok ⟨i, i.opcode, []⟩

/-- R131: a JMP to itself outside the mirror cells is an endless loop of completed steps, never a halt. -/
def Obligations.JmpToItselfNeverHalts : Prop :=
  ∀ (n : Nat) (s : State), s.halted = false → s.readByte s.ic = 0x11 → s.ar = s.ic → s.ic ≠ s.cfg.tickAddr →
    s.ic ≠ s.cfg.tockAddr →
    ∃ t, runSteps n s = .next t ∧ t.halted = false ∧ t.ic = s.ic ∧ t.ar = s.ar ∧ t.r0 = s.r0 ∧ t.r1 = s.r1 ∧
      t.r2 = s.r2 ∧ t.r3 = s.r3 ∧ t.tick.toNat = (s.tick.toNat + n) % 256 ∧ t.tock.toNat = s.tock.toNat - n

/-! ### Invariants -/

/-- 10_state.md R22 and the model's canonical memory (log 20): every step keeps `State.inv`, from every state that
has it. -/
def Obligations.StepKeepsTheStateInvariant : Prop :=
  ∀ s t : State, s.inv = true → step s = .next t → t.inv = true

/-- The state after reset has the invariant: parameters within the bounds of R6, memory in the model's canonical form
(log 20), a well-formed latch. -/
def Obligations.ResetHasTheStateInvariant : Prop := State.reset.inv = true

/-- R167 with R22: whatever moves the host makes between steps, the state keeps the invariant, and the parameters stay
those of the machine. -/
def Obligations.HostMovesKeepTheStateInvariant : Prop :=
  ∀ (s : State) (ms : List HostMove), s.inv = true → (hostRun s ms).inv = true ∧ (hostRun s ms).cfg = s.cfg

/-! ### Encoding -/

/-- R50 to R54: decoding and encoding agree for all instructions, both ways, with every operand value; a byte is
rejected as an opcode exactly when it has no table entry, and operands are missing exactly when the bytes end early. -/
def Obligations.DecodeAndEncodeAgree : Prop :=
  (∀ (i : Instr) (rest : List Byte), i.wf = true → decode (encode i ++ rest) = .ok (i, rest)) ∧
  (∀ (bs : List Byte) (i : Instr) (rest : List Byte), decode bs = .ok (i, rest) → bs = encode i ++ rest) ∧
  (∀ (op : Byte) (rest : List Byte), decode (op :: rest) = .error (.invalidOpcode op) ↔ lookupOpcode op = none) ∧
  ∀ (op : Byte) (rest : List Byte), decode (op :: rest) = .error (.missingOperand op) ↔
    ∃ d, lookupOpcode op = some d ∧ rest.length + 1 < d.format.length

/-- R53 and the example bytes of 95_test_vectors.md: a few words, written out, decode to what they stand for. -/
def Obligations.ExampleWordsDecode : Prop :=
  decode [0x17, 0x05] = .ok (.mr0 0x05, []) ∧ decode [0x01, 0x00, 0x02] = .ok (.mar 0x00 0x02, []) ∧
    decode [0x18, 0xE0, 0x42] = .ok (.mrw 0xE0 0x42, []) ∧ decode [0x12] = .ok (.sr0, []) ∧
    decode [0x10] = .ok (.x01, []) ∧ decode [0x24, 0x10] = .ok (.je0 0x10, []) ∧ decode [0xFF] = .ok (.hlt, []) ∧
    decodeTableWord 24 0x020001 = some (.mar 0x00 0x02) ∧ decodeTableWord 8 0x0A = none

/-- R53 and R54, with the count and the ranges the spec derives: 35 entries with distinct opcodes, each with the
mnemonic and the length R53 gives it, and exactly 221 bytes without one, in the three ranges. -/
def Obligations.DecoderTableSplitsTheBytes : Prop :=
  instructionTable.length = 35 ∧ tableWf instructionTable = true ∧
  instructionTable.map (fun d => (d.opcode, d.mnemonic, d.format.length)) =
    [(0x00#8, "NUL", 1), (0x01, "MAR", 3), (0x02, "SIC", 1), (0x03, "RAR", 1), (0x04, "AAR", 1), (0x05, "IR0", 1),
      (0x06, "A01", 1), (0x07, "DR0", 1), (0x08, "S01", 1), (0x09, "X12", 1), (0x10, "X01", 1), (0x11, "JMP", 1),
      (0x12, "SR0", 1), (0x13, "SRW", 1), (0x14, "LR0", 1), (0x15, "LRW", 1), (0x16, "TAW", 1), (0x17, "MR0", 2),
      (0x18, "MRW", 3), (0x19, "JZ0", 1), (0x20, "JGW", 1), (0x21, "JEW", 1), (0x22, "OR0", 2), (0x23, "AN0", 2),
      (0x24, "JE0", 2), (0x25, "C01", 1), (0x26, "C02", 1), (0x27, "IRW", 1), (0x28, "DRW", 1), (0x29, "X03", 1),
      (0x2A, "C03", 1), (0x2B, "C30", 1), (0x2C, "PL0", 1), (0x2D, "PR0", 1), (0xFF, "HLT", 1)] ∧
  ((List.range 256).filter fun n => (lookupOpcode (BitVec.ofNat 8 n)).isNone).length = 221 ∧
  ∀ b : Byte, lookupOpcode b = none ↔
    (0x0A ≤ b.toNat ∧ b.toNat ≤ 0x0F) ∨ (0x1A ≤ b.toNat ∧ b.toNat ≤ 0x1F) ∨ (0x2E ≤ b.toNat ∧ b.toNat ≤ 0xFE)

/-- How a table word is placed for the next step (log 19): the step fetches exactly the instruction the decoder reads
from it. -/
def Obligations.PlacedTableWordIsFetched : Prop :=
  ∀ (s : State) (nbits w : Nat) (i : Instr), decodeTableWord nbits w = some i →
    fetch (s.withFetchWord nbits w) = .ok ⟨i, i.opcode, i.operands⟩ ∧ (s.withFetchWord nbits w).halted = false ∧
      (s.withFetchWord nbits w).ic = s.ic ∧ CellsKeptBut [s.ic, s.ic + 1, s.ic + 2] s (s.withFetchWord nbits w)

/-! ### Memory, reset and the host ports -/

/-- 20_memory.md R31 and R32, for any integers. -/
def Obligations.MemoryReadsTheLatestWrite : Prop :=
  ∀ (s : State) (a v b : Int),
    ((s.memWrite a v).memRead b).toNat =
      (if b % 65536 = a % 65536 then (v % 256).toNat else (s.memRead b).toNat) ∧
    s.memRead (a + 65536) = s.memRead a ∧ s.memWrite a v = { s with mem := (s.memWrite a v).mem }

/-- 10_state.md R21, the whole table, for every parameter record in bounds. The latch, the flag cell, the tock cell and
the planes rest on the spec's decisions D20, D8, D6 and D10 (logs 18, 4, 3, 6). -/
def Obligations.ResetLeavesTheTableOfR21 : Prop :=
  State.reset = State.resetWith Config.chosen.val ∧
  ∀ p : Params, p.wf = true → ∀ s : State, s = State.resetWith p →
    s.r0 = 0x00 ∧ s.r1 = 0x00 ∧ s.r2 = 0x00 ∧ s.r3 = 0x00 ∧ s.ic = 0x0100 ∧ s.ar = 0x0000 ∧ s.tick = 0x00 ∧
    s.tock = 0xFF ∧ s.halted = false ∧ s.li = none ∧
    s.readByte p.flagAddr = p.flagSetValue ∧ s.readByte p.tockAddr = p.tockCellAtInit ∧
    (∀ a : Word, a.toNat < 0x0100 → a ≠ p.flagAddr → a ≠ p.tockAddr → s.readByte a = 0x00) ∧
    (∀ a : Word, 0x0100 ≤ a.toNat → a.toNat < 0xE000 → s.readByte a = 0xFF) ∧
    ∀ a : Word, 0xE000 ≤ a.toNat → s.readByte a = p.startupFrame.getD (a.toNat - 0xE000) 0x00

/-- 70_reset_and_hazards.md R180 and R181: the sequence of writes of init, from any state with the invariant, ends in
exactly the reset state (with the spec's decisions D6 and D10, logs 3, 6). -/
def Obligations.InitSequenceReachesTheResetState : Prop :=
  ∀ s : State, s.inv = true → initSequence s = Sys2Proof.Machine.init s ∧
    Sys2Proof.Machine.init s = State.resetWith s.cfg

/-- R184, what the spec derives: a machine stepped after init with nothing loaded halts at its first step. That IC
stays at 0x0100 is the spec's decision D4 (log 9); that this step counts and latches is its decision D5 (log 10). -/
def Obligations.UnloadedMachineHaltsAtOnce : Prop :=
  ∃ t, step State.reset = .next t ∧ t.halted = true ∧ t.ic = 0x0100 ∧ t.tick = 0x01 ∧ t.tock = 0xFE ∧
    t.li = some ⟨0xFF, 1, []⟩

/-- R183 (wrap and last byte wins: the spec's decision D12, log 13): a loaded byte that no later one overwrites stands
at its address, the cells no byte reaches keep theirs, and nothing but memory changes. -/
def Obligations.LoadCopiesTheBytes : Prop :=
  ∀ (s : State) (bytes : List Byte),
    load bytes s = { s with mem := (load bytes s).mem } ∧
    (∀ (i : Nat) (h : i < bytes.length), bytes.length ≤ i + 65536 →
      (load bytes s).memRead (0x0100 + (i : Int)) = bytes[i]) ∧
    ∀ a : Word, (∀ i < bytes.length, a.toNat ≠ (0x0100 + i) % 65536) → (load bytes s).readByte a = s.readByte a

/-- 60_exceptions.md R153: the formula, the error, and the bijection of the 4096 coordinates with each plane. -/
def Obligations.PixelAddressIsABijection : Prop :=
  (∀ x y : Int, 1 ≤ x → x ≤ 64 → 1 ≤ y → y ≤ 64 →
    ∃ ab ac : Word, pixelAddress x y = .ok (ab, ac) ∧ (ab.toNat : Int) = 0xE000 + ((y - 1) * 64 + (x - 1)) ∧
      (ac.toNat : Int) = 0xF000 + ((y - 1) * 64 + (x - 1))) ∧
  (∀ x y : Int, ¬(1 ≤ x ∧ x ≤ 64 ∧ 1 ≤ y ∧ y ≤ 64) → pixelAddress x y = .error (.invalidCoordinate x y)) ∧
  (∀ (x y x' y' : Int) (ab ac ab' ac' : Word), pixelAddress x y = .ok (ab, ac) → pixelAddress x' y' = .ok (ab', ac') →
    (ab = ab' ∨ ac = ac') → x = x' ∧ y = y') ∧
  ∀ a : Word, 0xE000 ≤ a.toNat →
    ∃ ab ac : Word, pixelAddress (a.toNat % 64 + 1) (a.toNat % 4096 / 64 + 1) = .ok (ab, ac) ∧
      (if a.toNat < 0xF000 then ab = a else ac = a)

/-- R154 and R155 (brightness plane first: the spec's decision D15, log 15): setPixel writes 0 or 1 to the two cells of
the pixel and nothing else, getFrame gives both back, and out of range nothing is written. -/
def Obligations.SetPixelThenGetFrameRoundTrips : Prop :=
  (∀ (s : State) (x y : Int) (br cm : Bool), 1 ≤ x → x ≤ 64 → 1 ≤ y → y ≤ 64 →
    ∃ t ab ac, pixelAddress x y = .ok (ab, ac) ∧ setPixel x y br cm s = .next t ∧
      (t.readByte ab).toNat = br.toNat ∧ (t.readByte ac).toNat = cm.toNat ∧
      t = { s with mem := t.mem } ∧ CellsKeptBut [ab, ac] s t ∧
      (getFrame t)[((y - 1) * 64 + (x - 1)).toNat]? = some (BitVec.ofNat 8 br.toNat) ∧
      (getFrame t)[4096 + ((y - 1) * 64 + (x - 1)).toNat]? = some (BitVec.ofNat 8 cm.toNat)) ∧
  ∀ (s : State) (x y : Int) (br cm : Bool), ¬(1 ≤ x ∧ x ≤ 64 ∧ 1 ≤ y ∧ y ≤ 64) →
    setPixel x y br cm s = .fault (.invalidCoordinate x y) ∧ hostAfter s (.setPixel x y br cm) = s

/-- 60_exceptions.md R163. -/
def Obligations.WriteDigitalInputStoresTheByte : Prop :=
  ∀ (s : State) (v : Int),
    ((writeDigitalInput v s).readByte s.cfg.joyAddr).toNat = (v % 256).toNat ∧
    writeDigitalInput v s = { s with mem := (writeDigitalInput v s).mem } ∧
    CellsKeptBut [s.cfg.joyAddr] s (writeDigitalInput v s)

/-- R156 and R181 (the byte values: the spec's decision D8, log 4): what the flag accessor writes it reads back, only
the flag cell changes, clear is 0x00, and after init the flag is set. -/
def Obligations.UpdateFlagAccessorsAgree : Prop :=
  ∀ s : State, s.cfg.wf = true →
    (∀ v : Bool, updateFlag (setUpdateFlag v s) = v ∧ CellsKeptBut [s.cfg.flagAddr] s (setUpdateFlag v s) ∧
      setUpdateFlag v s = { s with mem := (setUpdateFlag v s).mem }) ∧
    (setUpdateFlag false s).readByte s.cfg.flagAddr = 0x00 ∧
    (setUpdateFlag true s).readByte s.cfg.flagAddr = s.cfg.flagSetValue ∧
    updateFlag (Sys2Proof.Machine.init s) = true

/-- R158 and R155: resetFrame zeroes both planes and nothing else; the frame is then 8192 zero bytes. -/
def Obligations.ResetFrameZeroesBothPlanes : Prop :=
  ∀ s : State, (∀ a : Word, (resetFrame s).readByte a = if 0xE000 ≤ a.toNat then 0x00 else s.readByte a) ∧
    resetFrame s = { s with mem := (resetFrame s).mem } ∧ getFrame (resetFrame s) = List.replicate 8192 0x00

/-- R164 and R155 (refusal outside the domain: U6, log 22; plane order: D15, log 15): the read-out ports return the raw
cells, `read` the one cell its address names mod 65536, `readRange` and `getFrame` theirs in ascending order. -/
def Obligations.ReadOutPortsReturnTheCells : Prop :=
  (∀ (s : State) (a : Int), readPort a s = s.memRead a ∧ readPort (a + 65536) s = readPort a s ∧
    ∀ w : Word, a % 65536 = w.toNat → readPort a s = s.readByte w) ∧
  (∀ (s : State) (a b : Int), 0 ≤ a → a ≤ b → b ≤ 65535 →
    ∃ bs, readRange a b s = .ok bs ∧ (bs.length : Int) = b - a + 1 ∧
      ∀ i < bs.length, bs[i]? = some (s.memRead (a + i))) ∧
  (∀ (s : State) (a b : Int), ¬(0 ≤ a ∧ a ≤ b ∧ b ≤ 65535) → readRange a b s = .error (.readRangeOutOfDomain a b)) ∧
  ∀ s : State, (getFrame s).length = 8192 ∧ readRange 0xE000 0xFFFF s = .ok (getFrame s)

/-- R166, R71 and R18 (`none` before the first completed step: the spec's decision D20, log 18; that the step of HLT
is one too: its decision D5, log 10): the last-instruction
port names the instruction that ran, with its operand bytes as fetched; an idle step leaves it; the register port gives
every register. -/
def Obligations.LastInstructionPortNamesWhatRan : Prop :=
  lastInstruction State.reset = none ∧
  (∀ (s t : State) (g : Fetched), s.halted = false → fetch s = .ok g → step s = .next t →
    ∃ d, lookupOpcode (s.readByte s.ic) = some d ∧ d.opcode = g.instr.opcode ∧ d.format = g.instr.format ∧
      lastInstruction t = some (d.mnemonic, g.instr.operands)) ∧
  (∀ s t : State, s.halted = true → step s = .next t → lastInstruction t = lastInstruction s) ∧
  ∀ s : State, registers s = ⟨s.r0, s.r1, s.r2, s.r3, s.ic, s.ar, s.tick, s.tock, s.halted⟩
end

