-- ==== Sys2Proof/Tests/Slice0.lean ====
section
/-! SUPPORT. Tests: expected values are those of spec/95_test_vectors.md (part 2 unless another is named) and of the
encodings of spec/opcode_table.json. Each is one step or one operation on a small state. The last part shows, for
every statement with hypotheses, a concrete state and operands that meet them. -/

namespace Sys2Proof.Tests

open Sys2Proof Sys2Proof.Machine

/-- One parameter record within the bounds of R6; the addresses of tick, tock, joystick and flag are those the vectors
P5, P8 and P9 assume. -/
def params : Params :=
  { addrFlag := 0x30, addrTick := 0x10, addrTock := 0x11, addrJoy := 0x20, sicLowFirst := true
    tockCellAtInit := 0xFF, flagSetValue := 0x01, joyBitUp := 0, joyBitDown := 1, joyBitLeft := 2, joyBitRight := 3
    joyBitFire := 4, startupFrame := [] }

/-- The state after init of that machine. -/
def fresh : State := State.resetWith params

/-- That machine with a program loaded at 0x0100. -/
def loaded (bytes : List Byte) : State := load bytes fresh

/-- What a view shows of the state after one step; nothing if the step stops. -/
def after {α : Type} (view : State → α) (s : State) : Option α :=
  match step s with
  | .next t => some (view t)
  | .fault _ => none
  | .refused _ => none

/-- The two halves of the pair. -/
def pair (s : State) : Byte × Byte := (s.r1, s.r2)

/-- The instructions at the heads of some byte lists. -/
def heads (words : List (List Byte)) : List (Option Instr) := words.map fun w => (decode w).toOption.map Prod.fst

/-! ### Well-formedness: a term each check refuses -/

theorem test_params_wf : params.wf = true := by decide
theorem test_params_wf_refuses_equal_cells : { params with addrJoy := 0x10 }.wf = false := by decide
theorem test_params_wf_refuses_tock_cell : { params with tockCellAtInit := 0x01 }.wf = false := by decide
theorem test_params_wf_refuses_flag_zero : { params with flagSetValue := 0x00 }.wf = false := by decide
theorem test_params_wf_refuses_equal_bits : { params with joyBitFire := 0 }.wf = false := by decide
theorem test_params_wf_refuses_long_frame : { params with startupFrame := List.replicate 8193 0x00 }.wf = false := by
  have h : ¬ 8193 ≤ 8192 := by decide
  simp only [Params.wf, List.length_replicate, h, decide_false, Bool.and_false]
theorem test_latch_wf_refuses_length_zero : LastInstr.wf ⟨0x00, 0, []⟩ = false := by decide
theorem test_latch_wf_refuses_length_four : LastInstr.wf ⟨0x01, 4, [0x00, 0x00, 0x00]⟩ = false := by decide
theorem test_latch_wf_refuses_missing_operand : LastInstr.wf ⟨0x01, 3, [0x00]⟩ = false := by decide
theorem test_table_wf_refuses_second_entry : tableWf [⟨0x00, "NUL", .f1⟩, ⟨0x00, "HLT", .f1⟩] = false := by decide
theorem test_table_wf_refuses_long_name : tableWf [⟨0x00, "NULL", .f1⟩] = false := by decide
/-- No ill-formed `Instr` exists (R52), so its check is shown on the bytes: an opcode without its operands. -/
theorem test_decode_refuses_missing_operand :
    heads [[0x01, 0x00], [0x01], [0x18, 0x00], [0x17], [0x22], [0x23], [0x24], []] = List.replicate 8 none := by decide

/-! ### Decoding: every opcode byte written out from spec/opcode_table.json -/

theorem test_decode_address_register :
    heads [[0b00000001, 0b00000000, 0b00000010], [0b00000011], [0b00000100], [0b00010110]] =
      [some (.mar 0x00 0x02), some .rar, some .aar, some .taw] := by decide
theorem test_decode_arithmetic :
    heads [[0b00000101], [0b00000110], [0b00000111], [0b00001000], [0b00100111], [0b00101000]] =
      [some .ir0, some .a01, some .dr0, some .s01, some .irw, some .drw] := by decide
theorem test_decode_logic_shift :
    heads [[0b00100010, 0x0F], [0b00100011, 0xF0], [0b00101100], [0b00101101]] =
      [some (.or0 0x0F), some (.an0 0xF0), some .pl0, some .pr0] := by decide
theorem test_decode_moves :
    heads [[0b00010111, 0x05], [0b00011000, 0xE0, 0x42], [0b00001001], [0b00010000], [0b00101001], [0b00100101],
        [0b00100110], [0b00101010], [0b00101011]] =
      [some (.mr0 0x05), some (.mrw 0xE0 0x42), some .x12, some .x01, some .x03, some .c01, some .c02, some .c03,
        some .c30] := by decide
theorem test_decode_load_store :
    heads [[0b00000010], [0b00010010], [0b00010011], [0b00010100], [0b00010101]] =
      [some .sic, some .sr0, some .srw, some .lr0, some .lrw] := by decide
theorem test_decode_control :
    heads [[0b00000000], [0b00010001], [0b00011001], [0b00100000], [0b00100001], [0b00100100, 0x10], [0b11111111]] =
      [some .nul, some .jmp, some .jz0, some .jgw, some .jew, some (.je0 0x10), some .hlt] := by decide
theorem test_decode_refuses_gaps :
    heads [[0x0A], [0x0F], [0x1A], [0x1F], [0x2E], [0xFE]] = List.replicate 6 none := by decide
theorem test_table_word_mar : decodeTableWord 24 0b000000100000000000000001 = some (.mar 0x00 0x02) := by decide
theorem test_table_word_cuts_bits_above : decodeTableWord 8 0x1234FF17 = some (.mr0 0x00) ∧
    decodeTableWord 16 0x120517 = some (.mr0 0x05) := by decide

/-! ### The kernel runs a placed table word from the reset state, one word for each family -/

theorem test_reset_runs_mar :
    after (fun t => (t.ar, t.ic, t.tick)) (State.reset.withFetchWord 24 0x020001) = some (0x0200, 0x0103, 0x01) := by
  decide
theorem test_reset_runs_a01 : after pair (State.reset.withFetchWord 8 0x06) = some (0x00, 0x00) := by decide
theorem test_reset_runs_an0 : after (·.r0) (State.reset.withFetchWord 16 0xFF23) = some 0x00 := by decide
theorem test_reset_runs_mrw : after pair (State.reset.withFetchWord 24 0x42E018) = some (0xE0, 0x42) := by decide
theorem test_reset_runs_srw : after (·.ic) (State.reset.withFetchWord 8 0x13) = some 0x0101 := by decide
theorem test_reset_runs_jmp : after (·.ic) (State.reset.withFetchWord 8 0x11) = some 0x0000 := by decide
theorem test_reset_runs_hlt : after (·.halted) (State.reset.withFetchWord 8 0xFF) = some true := by decide

/-! ### Address register -/

theorem test_mar : after (fun t => (t.ar, t.ic)) (loaded [0x01, 0x00, 0x02]) = some (0x0200, 0x0103) := by decide
theorem test_rar : after (·.ar) { loaded [0x03] with r1 := 0xE0, r2 := 0x42 } = some 0xE042 := by decide
theorem test_aar : after (·.ar) { loaded [0x04] with ar := 0xFF80, r0 := 0xFF } = some 0x007F := by decide
theorem test_taw : after pair { loaded [0x16] with ar := 0xE042 } = some (0xE0, 0x42) := by decide

/-! ### Arithmetic -/

theorem test_ir0 : after (·.r0) { loaded [0x05] with r0 := 0x80 } = some 0x81 := by decide
theorem test_ir0_ceiling : after (·.r0) { loaded [0x05] with r0 := 0xFF } = some 0xFF := by decide
theorem test_dr0 : after (·.r0) { loaded [0x07] with r0 := 0x80 } = some 0x7F := by decide
theorem test_dr0_floor : after (·.r0) { loaded [0x07] with r0 := 0x00 } = some 0x00 := by decide
theorem test_a01_carry : after pair { loaded [0x06] with r0 := 0x05, r1 := 0xFE, r2 := 0x03 } = some (0x03, 0x04) := by
  decide
theorem test_a01_saturates :
    after pair { loaded [0x06] with r0 := 0x80, r1 := 0x80, r2 := 0xFF } = some (0xFF, 0xFF) := by decide
theorem test_s01_borrow : after pair { loaded [0x08] with r0 := 0x05, r1 := 0x03, r2 := 0x01 } = some (0x02, 0x00) := by
  decide
theorem test_s01_floor : after pair { loaded [0x08] with r0 := 0x20, r1 := 0x10, r2 := 0x00 } = some (0x00, 0x00) := by
  decide
theorem test_irw_carry : after pair { loaded [0x27] with r1 := 0xFF, r2 := 0xFE } = some (0x00, 0xFF) := by decide
theorem test_irw_fixed_point : after pair { loaded [0x27] with r1 := 0xFF, r2 := 0xFF } = some (0xFF, 0xFF) := by decide
theorem test_drw_borrow : after pair { loaded [0x28] with r1 := 0x00, r2 := 0x05 } = some (0x01, 0x04) := by decide
theorem test_drw_fixed_point : after pair { loaded [0x28] with r1 := 0x00, r2 := 0x00 } = some (0x00, 0x00) := by decide

/-! ### Logic and shift -/

theorem test_or0 : after (fun t => (t.r0, t.ic)) { loaded [0x22, 0x0F] with r0 := 0x50 } = some (0x5F, 0x0102) := by
  decide
theorem test_an0 : after (·.r0) { loaded [0x23, 0xF0] with r0 := 0x5F } = some 0x50 := by decide
theorem test_pl0 : after (·.r0) { loaded [0x2C] with r0 := 0x81 } = some 0x02 := by decide
theorem test_pr0 : after (·.r0) { loaded [0x2D] with r0 := 0x81 } = some 0x40 := by decide

/-! ### Moves -/

theorem test_mr0 : after (fun t => (t.r0, t.ic)) (loaded [0x17, 0x05]) = some (0x05, 0x0102) := by decide
theorem test_mrw : after (fun t => (pair t, t.ic)) (loaded [0x18, 0xE0, 0x42]) = some ((0xE0, 0x42), 0x0103) := by decide
theorem test_x12 : after pair { loaded [0x09] with r1 := 0x12, r2 := 0x34 } = some (0x34, 0x12) := by decide
theorem test_x01 :
    after (fun t => (t.r0, t.r1)) { loaded [0x10] with r0 := 0x01, r1 := 0xFE } = some (0xFE, 0x01) := by decide
theorem test_x03 :
    after (fun t => (t.r0, t.r3)) { loaded [0x29] with r0 := 0x07, r3 := 0x99 } = some (0x99, 0x07) := by decide
theorem test_c01 : after (fun t => (t.r0, t.r1)) { loaded [0x25] with r0 := 0x42 } = some (0x42, 0x42) := by decide
theorem test_c02 : after (fun t => (t.r0, t.r2)) { loaded [0x26] with r0 := 0x42 } = some (0x42, 0x42) := by decide
theorem test_c03 : after (fun t => (t.r0, t.r3)) { loaded [0x2A] with r0 := 0x03 } = some (0x03, 0x03) := by decide
theorem test_c30 :
    after (fun t => (t.r0, t.r3)) { loaded [0x2B] with r0 := 0xAA, r3 := 0x03 } = some (0x03, 0x03) := by decide

/-! ### Loads and stores -/

/-- The two cells from an address. -/
def cells (a : Word) (s : State) : Byte × Byte := (s.readByte a, s.readByte (a + 1))

theorem test_sic_low_first :
    after (cells 0x0300) { (fresh.writeByte 0x0105 0x02) with ic := 0x0105, ar := 0x0300 } = some (0x05, 0x01) := by
  decide
theorem test_sic_high_first :
    after (cells 0x0300)
      { (fresh.writeByte 0x0105 0x02) with ic := 0x0105, ar := 0x0300, cfg := { params with sicLowFirst := false } } =
      some (0x01, 0x05) := by decide
theorem test_sr0 : after (cells 0x0200) { loaded [0x12] with r0 := 0x7A, ar := 0x0200 } = some (0x7A, 0xFF) := by decide
theorem test_sr0_tick_cell_is_overwritten :
    after (cells 0x0010) { loaded [0x12] with r0 := 0x99, ar := 0x0010 } = some (0x01, 0xFE) := by decide
theorem test_srw_wraps :
    after (cells 0xFFFF) { loaded [0x13] with r1 := 0xAB, r2 := 0xCD, ar := 0xFFFF } = some (0xAB, 0xCD) := by decide
theorem test_lr0_init_fill : after (·.r0) { loaded [0x14] with ar := 0x0300 } = some 0xFF := by decide
theorem test_lrw_wraps :
    after pair { ((loaded [0x15]).writeByte 0xFFFF 0x11).writeByte 0x0000 0x22 with ar := 0xFFFF } =
      some (0x11, 0x22) := by decide

/-! ### Control -/

theorem test_nul : after (fun t => (t.ic, t.tick, t.tock)) (loaded [0x00]) = some (0x0101, 0x01, 0xFE) := by decide
theorem test_jmp : after (·.ic) { loaded [0x11] with ar := 0x0106 } = some 0x0106 := by decide
theorem test_jz0_taken : after (·.ic) { loaded [0x19] with ar := 0x0114 } = some 0x0114 := by decide
theorem test_jz0_not_taken : after (·.ic) { loaded [0x19] with r0 := 0x01, ar := 0x0114 } = some 0x0101 := by decide
theorem test_jgw_unsigned :
    after (·.ic) { loaded [0x20] with r1 := 0x80, r2 := 0x7F, ar := 0x0300 } = some 0x0300 := by decide
theorem test_jgw_strict : after (·.ic) { loaded [0x20] with r1 := 0x04, r2 := 0x04, ar := 0x0300 } = some 0x0101 := by
  decide
theorem test_jew_taken : after (·.ic) { loaded [0x21] with r1 := 0x04, r2 := 0x04, ar := 0x0300 } = some 0x0300 := by
  decide
theorem test_jew_not_taken : after (·.ic) { loaded [0x21] with r1 := 0x05, r2 := 0x03, ar := 0x0300 } = some 0x0101 := by
  decide
theorem test_je0_taken : after (·.ic) { loaded [0x24, 0x10] with r0 := 0x10, ar := 0x0150 } = some 0x0150 := by decide
theorem test_je0_not_taken : after (·.ic) { loaded [0x24, 0x10] with r0 := 0x11, ar := 0x0150 } = some 0x0102 := by decide
theorem test_hlt :
    after (fun t => (t.halted, t.ic, t.tick, t.tock, t.li)) (loaded [0xFF]) =
      some (true, 0x0100, 0x01, 0xFE, some ⟨0xFF, 1, []⟩) := by decide

/-! ### The step, the fetch and the ports -/

theorem test_fetch_wraps_length_three :
    after (fun t => (t.ar, t.ic, t.li))
      { ((fresh.writeByte 0xFFFE 0x01).writeByte 0xFFFF 0x34).writeByte 0x0000 0x12 with ic := 0xFFFE } =
      some (0x1234, 0x0001, some ⟨0x01, 3, [0x34, 0x12]⟩) := by decide
theorem test_tick_wraps_tock_holds :
    after (fun t => (t.tick, t.tock)) { loaded [0x00] with tick := 0xFF, tock := 0x00 } = some (0x00, 0x00) := by decide
theorem test_invalid_opcode : (stepPort (loaded [0x0A])).1 = .fault (.invalidOpcode 0x0100 0x0A) := by decide
theorem test_step_while_halted :
    (stepPort { loaded [0x17, 0x05] with halted := true }).1 = .idle := by decide
theorem test_pixel_address :
    [pixelAddress 1 1, pixelAddress 64 1, pixelAddress 3 2, pixelAddress 32 32, pixelAddress 64 64].map
        (fun r => r.toOption) =
      [some (0xE000, 0xF000), some (0xE03F, 0xF03F), some (0xE042, 0xF042), some (0xE7DF, 0xF7DF),
        some (0xEFFF, 0xFFFF)] := by decide
theorem test_pixel_address_refuses_outside :
    [coordinateOk 0 1, coordinateOk 65 1, coordinateOk 1 0, coordinateOk 1 65] = List.replicate 4 false := by decide
theorem test_set_pixel_writes_both_planes :
    (let s := hostAfter fresh (.setPixel 3 2 true false); (s.readByte 0xE042, s.readByte 0xF042)) = (0x01, 0x00) := by
  decide
theorem test_write_digital_input : (writeDigitalInput 0x1FF fresh).readByte 0x0020 = 0xFF := by decide
theorem test_joystick_level : joyLevel .fire (writeDigitalInput 0x10 fresh) = true := by decide
theorem test_update_flag :
    updateFlag fresh = true ∧ updateFlag (setUpdateFlag false fresh) = false ∧
      (setUpdateFlag false fresh).readByte 0x0030 = 0x00 := by decide
theorem test_memory_wraps : ((fresh.memWrite 0x10000 0x1FF).memRead 0x0000) = 0xFF := by decide
theorem test_write_of_reset_content_lists_nothing : (fresh.writeByte 0x0200 0xFF).mem = [] := by decide
theorem test_read_port_wraps : readPort 0x10100 fresh = 0xFF ∧ readPort 0x10000 fresh = 0x00 := by decide
theorem test_read_range : (readRange 0x00FF 0x0100 fresh).toOption = some [0x00, 0xFF] := by decide
theorem test_last_instruction :
    after lastInstruction (loaded [0x17, 0x05]) = some (some ("MR0", [0x05])) := by decide

/-! ### Witnesses: the hypotheses of each statement that has some are met -/

theorem test_witness_params_wf : fresh.cfg.wf = true := by decide
theorem test_witness_HltStepIsACompletedStep :
    (loaded [0xFF]).halted = false ∧ (loaded [0xFF]).readByte (loaded [0xFF]).ic = 0xFF ∧
      (loaded [0xFF]).cfg.wf = true := by decide
/-- All three outcomes: halt, a jump taken, an advance. -/
theorem test_witness_InstructionAppliesOneControlOutcome :
    exec .hlt fresh = .next { fresh with halted := true } ∧
      (Instr.jz0.jumpsIn fresh = true ∧ exec .jz0 fresh = .next { fresh with ic := 0x0000 }) ∧
      (Instr.jgw.jumpsIn fresh = false ∧ exec .jgw fresh = .next { fresh with ic := 0x0101 }) := ⟨rfl, ⟨rfl, rfl⟩, rfl, rfl⟩
/-- NUL is in none of the lists, so it meets every clause. -/
theorem test_witness_OnlyListedInstructionsWrite :
    exec .nul fresh = .next { fresh with ic := 0x0101 } ∧ Instr.nul.opcode = 0x00 := ⟨rfl, rfl⟩
theorem test_witness_OnlyListedInstructionsWrite_lists :
    Instr.nul.opcode ∉ [0x05#8, 0x07, 0x10, 0x14, 0x17, 0x22, 0x23, 0x29, 0x2B, 0x2C, 0x2D] ∧
      Instr.nul.opcode ∉ [0x06#8, 0x08, 0x09, 0x10, 0x15, 0x16, 0x18, 0x25, 0x27, 0x28] ∧
      Instr.nul.opcode ∉ [0x06#8, 0x08, 0x09, 0x15, 0x16, 0x18, 0x26, 0x27, 0x28] ∧
      Instr.nul.opcode ∉ [0x29#8, 0x2A] ∧ Instr.nul.opcode ∉ [0x01#8, 0x03, 0x04] ∧ Instr.nul.opcode ≠ 0xFF := by decide
theorem test_witness_OnlyListedInstructionsRead_lists :
    Instr.nul.opcode ∉ [0x04#8, 0x05, 0x06, 0x07, 0x08, 0x10, 0x12, 0x19, 0x22, 0x23, 0x24, 0x25, 0x26, 0x29, 0x2A,
        0x2C, 0x2D] ∧
      Instr.nul.opcode ∉ [0x03#8, 0x06, 0x08, 0x09, 0x10, 0x13, 0x20, 0x21, 0x27, 0x28] ∧
      Instr.nul.opcode ∉ [0x03#8, 0x06, 0x08, 0x09, 0x13, 0x20, 0x21, 0x27, 0x28] ∧ Instr.nul.opcode ∉ [0x29#8, 0x2B] ∧
      Instr.nul.opcode ∉ [0x02#8, 0x04, 0x11, 0x12, 0x13, 0x14, 0x15, 0x16, 0x19, 0x20, 0x21, 0x24] ∧
      Instr.nul.opcode ≠ 0x02 := by decide
/-- An instruction of each list of those that write a register without reading it: MR0, MRW, C03, MAR. -/
theorem test_witness_OnlyListedInstructionsRead_writers :
    (Instr.mr0 0x00).opcode ∈ [0x14#8, 0x17, 0x2B] ∧ (Instr.mrw 0x00 0xFF).opcode ∈ [0x15#8, 0x16, 0x18, 0x25] ∧
      (Instr.mrw 0x00 0xFF).opcode ∈ [0x15#8, 0x16, 0x18, 0x26] ∧ Instr.c03.opcode ∈ [0x2A#8] ∧
      (Instr.mar 0x00 0xFF).opcode ∈ [0x01#8, 0x03] := by decide
theorem test_witness_StepRunsTheDecodedInstruction :
    let s := loaded [0x01, 0x00, 0x02]
    s.halted = false ∧
      decode [s.readByte s.ic, s.readByte (s.ic + 1), s.readByte (s.ic + 2)] = .ok (.mar 0x00 0x02, []) ∧
      (Instr.mar 0x00 0x02).wf = true := ⟨rfl, rfl, rfl⟩
theorem test_witness_HaltedCoreNeverChanges :
    { fresh with halted := true }.halted = true ∧ (HostMove.load [0x00]) ≠ .init := by decide
/-- The two ends of each of the three ranges. -/
theorem test_witness_InvalidOpcodeFaultsForEver :
    ∀ b ∈ [0x0A#8, 0x0F, 0x1A, 0x1F, 0x2E, 0xFE],
      (loaded [b]).halted = false ∧
        ((0x0A ≤ ((loaded [b]).readByte (loaded [b]).ic).toNat ∧ ((loaded [b]).readByte (loaded [b]).ic).toNat ≤ 0x0F) ∨
          (0x1A ≤ ((loaded [b]).readByte (loaded [b]).ic).toNat ∧ ((loaded [b]).readByte (loaded [b]).ic).toNat ≤ 0x1F) ∨
          (0x2E ≤ ((loaded [b]).readByte (loaded [b]).ic).toNat ∧ ((loaded [b]).readByte (loaded [b]).ic).toNat ≤ 0xFE)) := by
  decide
/-- Next to those ends an opcode stands, and the core can run. -/
theorem test_witness_StepStopsOnlyOnInvalidOpcode :
    (∀ b ∈ [0x09#8, 0x10, 0x19, 0x20, 0x2D, 0xFF], CanRun (loaded [b])) ∧
      (loaded [0x0A]).halted = false ∧ lookupOpcode ((loaded [0x0A]).readByte (loaded [0x0A]).ic) = none := by decide
theorem test_witness_TickCountsCompletedSteps :
    (loaded [0x00]).cfg.wf = true ∧ (loaded [0x00]).halted = false ∧
      ∃ t, step { loaded [0x00] with tick := 0xFF } = .next t ∧ t.tick = 0x00 := ⟨by decide, rfl, _, rfl, rfl⟩
/-- Both clauses of the tock rule at their boundary: 0 and 1 before the step. -/
theorem test_witness_TockCountsDownAndHolds :
    (∃ t, step { loaded [0x00] with tock := 0x00 } = .next t ∧ t.tock = 0x00) ∧
      (∃ t, step { loaded [0x00] with tock := 0x01 } = .next t ∧ t.tock = 0x00) ∧
      ∃ t, (loaded [0x00]).tock = 0xFF ∧ runSteps 1 (loaded [0x00]) = .next t ∧ t.halted = false :=
  ⟨⟨_, rfl, rfl⟩, ⟨_, rfl, rfl⟩, _, rfl, rfl, rfl⟩
theorem test_witness_CountersAfterAnyRun :
    (∃ t, runSteps 0 fresh = .next t ∧ t.halted = false) ∧
      ∃ t, runSteps 3 (loaded [0x00, 0x00, 0x00]) = .next t ∧ t.halted = false := ⟨⟨_, rfl, rfl⟩, _, rfl, rfl⟩
theorem test_witness_StraightRunAdvancesByTheLengths :
    ∃ t, straightRun 3 (loaded [0x17, 0x50, 0x2C, 0x01, 0x00, 0x02]) = some (t, [2, 1, 3]) := ⟨_, rfl⟩
theorem test_witness_HaltedIsSetByHltAlone :
    (∃ t, step (loaded [0xFF]) = .next t ∧ t.halted = true) ∧ (∃ t, step (loaded [0x00]) = .next t ∧ t.halted = false) ∧
      (∃ t, step { fresh with halted := true } = .next t) ∧ Instr.nul ≠ .hlt ∧
      HostMove.load [0x00] ≠ .init ∧ HostMove.load [0x00] ≠ .step :=
  ⟨⟨_, rfl, rfl⟩, ⟨_, rfl, rfl⟩, ⟨_, rfl⟩, by decide, by decide, by decide⟩
theorem test_witness_StepWritesOnlyStoresAndMirrors :
    (loaded [0x13]).halted = false ∧ fetch (loaded [0x13]) = .ok ⟨.srw, 0x13, []⟩ ∧ ∃ t, step (loaded [0x13]) = .next t :=
  ⟨rfl, rfl, _, rfl⟩
/-- NUL put in place of the next opcode byte. -/
theorem test_witness_StoreIsSeenByTheNextFetch :
    let s := { loaded [0x12] with ar := 0x0101 }
    s.halted = false ∧ s.readByte s.ic = 0x12 ∧ s.ar = s.ic + 1 ∧ s.r0 = Instr.nul.opcode ∧ Instr.nul.operands = [] ∧
      s.ar ≠ s.cfg.tickAddr ∧ s.ar ≠ s.cfg.tockAddr := by decide
theorem test_witness_JmpToItselfNeverHalts :
    let s := { loaded [0x11] with ar := 0x0100 }
    s.halted = false ∧ s.readByte s.ic = 0x11 ∧ s.ar = s.ic ∧ s.ic ≠ s.cfg.tickAddr ∧ s.ic ≠ s.cfg.tockAddr := by decide
theorem test_witness_StepKeepsTheStateInvariant :
    (loaded [0x17, 0x05]).inv = true ∧ ∃ t, step (loaded [0x17, 0x05]) = .next t := ⟨by decide, _, rfl⟩
/-- The invariant refuses a listed entry that its address reads as anyway, and a latch no instruction leaves. -/
theorem test_inv_refuses :
    { fresh with mem := [(0x0200, 0xFF)] }.inv = false ∧ { fresh with mem := [(5, 0x01), (5, 0x02)] }.inv = false ∧
      { fresh with li := some ⟨0x0A, 1, []⟩ }.inv = false ∧ { fresh with li := some ⟨0x00, 2, [0x00]⟩ }.inv = false := by
  decide
theorem test_witness_HostMovesKeepTheStateInvariant : fresh.inv = true := by decide
theorem test_witness_InitSequenceReachesTheResetState :
    { loaded [0x17, 0x05] with halted := true, r3 := 0x99 }.inv = true := by decide
theorem test_witness_DecodeAndEncodeAgree :
    (Instr.mrw 0x00 0xFF).wf = true ∧ decode [0x18, 0x00, 0xFF, 0x07] = .ok (.mrw 0x00 0xFF, [0x07]) ∧
      lookupOpcode 0x0A = none ∧ decode [0x18, 0x00] = .error (.missingOperand 0x18) := ⟨rfl, rfl, rfl, rfl⟩
theorem test_witness_DecoderTableSplitsTheBytes :
    [0x09#8, 0x0A, 0x0F, 0x10, 0x19, 0x1A, 0x1F, 0x20, 0x2D, 0x2E, 0xFE, 0xFF].map (fun b => (lookupOpcode b).isNone) =
      [false, true, true, false, false, true, true, false, false, true, true, false] := by decide
theorem test_witness_PlacedTableWordIsFetched : decodeTableWord 8 0xFF = some .hlt := by decide
/-- The boundary addresses of the four ranges of table R21. -/
theorem test_witness_ResetLeavesTheTableOfR21 :
    params.wf = true ∧ (0x0000 : Word) ≠ params.flagAddr ∧ (0x0000 : Word) ≠ params.tockAddr ∧
      (0x00FF : Word).toNat < 0x0100 ∧ (0x00FF : Word) ≠ params.flagAddr ∧ (0x00FF : Word) ≠ params.tockAddr ∧
      [fresh.readByte 0x0000, fresh.readByte 0x00FF, fresh.readByte 0x0100, fresh.readByte 0xDFFF,
        fresh.readByte 0xE000, fresh.readByte 0xFFFF] = [0x00, 0x00, 0xFF, 0xFF, 0x00, 0x00] := by decide
theorem test_witness_LoadCopiesTheBytes :
    1 < [0x17#8, 0x05].length ∧ [0x17#8, 0x05].length ≤ 1 + 65536 ∧
      (∀ i < [0x17#8, 0x05].length, (0x0102 : Word).toNat ≠ (0x0100 + i) % 65536) := by decide
theorem test_witness_PixelAddressIsABijection :
    coordinateOk 1 1 = true ∧ coordinateOk 64 64 = true ∧ ¬((1 : Int) ≤ 0 ∧ (0 : Int) ≤ 64) ∧
      pixelAddress 64 64 = .ok (0xEFFF, 0xFFFF) ∧ 0xE000 ≤ (0xE000 : Word).toNat ∧ 0xE000 ≤ (0xF000 : Word).toNat :=
  ⟨rfl, rfl, by decide, rfl, by decide, by decide⟩
theorem test_witness_SetPixelThenGetFrameRoundTrips :
    ((1 : Int) ≤ 1 ∧ (1 : Int) ≤ 64 ∧ (1 : Int) ≤ 64 ∧ (64 : Int) ≤ 64) ∧
      ¬((1 : Int) ≤ 65 ∧ (65 : Int) ≤ 64 ∧ (1 : Int) ≤ 1 ∧ (1 : Int) ≤ 64) := by decide
theorem test_witness_UpdateFlagAccessorsAgree : fresh.cfg.wf = true := by decide
/-- Both bounds of the domain, one address alone, and the three ways out of it; addresses below 0 and at 65536. -/
theorem test_witness_ReadOutPortsReturnTheCells :
    ((-1 : Int) % 65536 = (0xFFFF : Word).toNat ∧ (65536 : Int) % 65536 = (0x0000 : Word).toNat) ∧
    ((0 : Int) ≤ 0 ∧ (0 : Int) ≤ 65535 ∧ (65535 : Int) ≤ 65535) ∧ ((0 : Int) ≤ 5 ∧ (5 : Int) ≤ 5 ∧ (5 : Int) ≤ 65535) ∧
      ¬((0 : Int) ≤ -1 ∧ (-1 : Int) ≤ 0 ∧ (0 : Int) ≤ 65535) ∧ ¬((0 : Int) ≤ 2 ∧ (2 : Int) ≤ 1 ∧ (1 : Int) ≤ 65535) ∧
      ¬((0 : Int) ≤ 0 ∧ (0 : Int) ≤ 65536 ∧ (65536 : Int) ≤ 65535) := by decide
theorem test_witness_LastInstructionPortNamesWhatRan :
    (loaded [0x17, 0x05]).halted = false ∧ fetch (loaded [0x17, 0x05]) = .ok ⟨.mr0 0x05, 0x17, [0x05]⟩ ∧
      (∃ t, step (loaded [0x17, 0x05]) = .next t) ∧ ∃ t, step { fresh with halted := true } = .next t :=
  ⟨rfl, rfl, ⟨_, rfl⟩, _, rfl⟩

end Sys2Proof.Tests
end

section
/-! The reset half of the state invariant (spec/10_state.md R21, R22): it is taken apart into its three parts once, and
each part is shown of the state right after init. -/

namespace Sys2Proof.Machine

theorem State.inv_iff {s : State} :
    s.inv = true ↔ s.cfg.wf = true ∧ Memory.wf s.cfg s.mem = true ∧ latchWf s.li = true := by
  simp only [State.inv, Bool.and_eq_true, and_assoc]

@[simp] theorem latchWf_none : latchWf none = true := rfl

@[simp] theorem State.resetWith_cfg (p : Params) : (State.resetWith p).cfg = p := rfl

@[simp] theorem State.resetWith_mem (p : Params) : (State.resetWith p).mem = [] := rfl

@[simp] theorem State.resetWith_li (p : Params) : (State.resetWith p).li = none := rfl

/-- Init adds nothing to memory and empties the latch, so only the bounds on the parameters are left to ask for. -/
theorem State.inv_resetWith_iff {p : Params} : (State.resetWith p).inv = true ↔ p.wf = true := by
  simp [State.inv_iff, Memory.wf_nil]

/-- Settles O43: the parameters of the machine at hand carry the proof that they are within the bounds of R6. -/
theorem resetHasTheStateInvariant : Obligations.ResetHasTheStateInvariant :=
  State.inv_resetWith_iff.2 Config.chosen.ok

end Sys2Proof.Machine
end

section
/-! The instruction as its two phases (spec/40_execution_cycle.md R68, R69): what it does to registers and cells, and
where it leaves IC. Every frame and noninterference fact about `exec` below is a case split over the first, with the
conditional jumps already put away in the second. -/

namespace Sys2Proof.Machine

/-- Phase 4 of the step (R68): the registers and cells an instruction writes, IC left alone. HLT's flag is part of it;
the jumps and NUL do nothing here. `exec_eq` ties it to the model's `exec`. -/
def effect (i : Instr) (s : State) : State :=
  match i with
  | .nul | .jmp | .jz0 | .jgw | .jew | .je0 _ => s
  | .mar op1 op2 => s.setAR (imm16 op1 op2)
  | .rar => s.setAR (wordOf s.r1 s.r2)
  | .aar => s.setAR (s.ar + zext16 s.r0)
  | .taw => (s.setR1 (hi8 s.ar)).setR2 (lo8 s.ar)
  | .ir0 => s.setR0 (satInc s.r0)
  | .dr0 => s.setR0 (satDec s.r0)
  | .a01 => s.setPair (addPair s.r1 s.r2 s.r0)
  | .irw => s.setPair (addPair s.r1 s.r2 0x01)
  | .s01 => s.setPair (subPair s.r1 s.r2 s.r0)
  | .drw => s.setPair (subPair s.r1 s.r2 0x01)
  | .or0 op1 => s.setR0 (s.r0 ||| op1)
  | .an0 op1 => s.setR0 (s.r0 &&& op1)
  | .pl0 => s.setR0 (s.r0 <<< 1)
  | .pr0 => s.setR0 (s.r0 >>> 1)
  | .mr0 op1 => s.setR0 op1
  | .mrw op1 op2 => (s.setR1 op1).setR2 op2
  | .x12 => (s.setR1 s.r2).setR2 s.r1
  | .x01 => (s.setR0 s.r1).setR1 s.r0
  | .x03 => (s.setR0 s.r3).setR3 s.r0
  | .c01 => s.setR1 s.r0
  | .c02 => s.setR2 s.r0
  | .c03 => s.setR3 s.r0
  | .c30 => s.setR0 s.r3
  | .sic => storeTwo (sicFirst s s.ic) (sicSecond s s.ic) s
  | .sr0 => s.writeByte (effAddr s) s.r0
  | .srw => storeTwo s.r1 s.r2 s
  | .lr0 => s.setR0 (s.readByte (effAddr s))
  | .lrw => (s.setR1 (s.readByte (effAddr s))).setR2 (s.readByte (effAddrNext s))
  | .hlt => s.setHalted

/-- Phase 5 of the step (R69): where the control outcome leaves IC, from the state before the instruction. -/
def nextIC (i : Instr) (s : State) : Word :=
  match i with
  | .hlt => s.ic
  | i => if i.jumpsIn s then s.ar else s.ic + BitVec.ofNat 16 i.format.length

theorem jumpIf_eq (cond : Bool) (len : Nat) (s : State) :
    jumpIf cond len s = .next (s.setIC (if cond then s.ar else s.ic + BitVec.ofNat 16 len)) := by
  cases cond <;> rfl

/-- What `exec` answers, said once for all instructions: never a stop, and the two phases one after the other. -/
theorem exec_eq (i : Instr) (s : State) : exec i s = .next ((effect i s).setIC (nextIC i s)) := by
  cases i with
  | jz0 | jgw | jew | je0 _ => exact jumpIf_eq _ _ s
  | _ => rfl

theorem exec_next {i : Instr} {s t : State} : exec i s = .next t ↔ t = (effect i s).setIC (nextIC i s) := by
  simp [exec_eq, eq_comm]

/-! ### The step in these terms -/

/-- A halted core is idle (R66). -/
theorem step_of_halted {s : State} (hhalted : s.halted = true) : step s = .next s := by simp [step, hhalted]

theorem step_of_fetch_error {s : State} {f : Fault} (hrun : s.halted = false) (hfetch : fetch s = .error f) :
    step s = .fault f := by simp [step, hrun, hfetch]

theorem step_of_fetch_ok {s u : State} {g : Fetched} (hrun : s.halted = false) (hfetch : fetch s = .ok g)
    (hexec : exec g.instr s = .next u) : step s = .next (u.complete g.opcode g.operands) := by
  simp [step, hrun, hfetch, hexec]

/-- A step of a core that is not halted, taken apart: the fetched instruction's two phases, then the counters and the
latch. -/
theorem step_completed {s t : State} (hrun : s.halted = false) (h : step s = .next t) :
    ∃ g, fetch s = .ok g ∧
      t = ((effect g.instr s).setIC (nextIC g.instr s)).complete g.opcode g.operands := by
  rcases step_next_cases h with ⟨hhalted, -⟩ | ⟨-, g, u, hfetch, hexec, rfl⟩
  · simp [hrun] at hhalted
  · exact ⟨g, hfetch, by rw [exec_next.1 hexec]⟩

end Sys2Proof.Machine
end

section
/-! What an instruction leaves as it was (spec/10_state.md R11, the "written by" column), one rule for each register
and for memory. In each, the named cases are the instructions that may write it. -/

namespace Sys2Proof.Machine

variable {i : Instr} {s t : State}

theorem storeTwo_readByte_other {a : Word} (b1 b2 : Byte) (s : State) (h : a ∉ [effAddr s, effAddrNext s]) :
    (storeTwo b1 b2 s).readByte a = s.readByte a := by
  obtain ⟨hfirst, hsecond⟩ : a ≠ effAddr s ∧ a ≠ effAddrNext s := by simpa using h
  simp only [storeTwo]
  rw [State.readByte_writeByte_other _ hsecond, State.readByte_writeByte_other _ hfirst]

theorem storeTwo_mem_wf (b1 b2 : Byte) (h : Memory.wf s.cfg s.mem = true) :
    Memory.wf (storeTwo b1 b2 s).cfg (storeTwo b1 b2 s).mem = true :=
  State.wf_writeByte (State.wf_writeByte h _ _) _ _

@[simp] theorem effect_tick (i : Instr) (s : State) : (effect i s).tick = s.tick := by cases i <;> rfl
@[simp] theorem effect_tock (i : Instr) (s : State) : (effect i s).tock = s.tock := by cases i <;> rfl
@[simp] theorem effect_li (i : Instr) (s : State) : (effect i s).li = s.li := by cases i <;> rfl
@[simp] theorem effect_cfg (i : Instr) (s : State) : (effect i s).cfg = s.cfg := by cases i <;> rfl

theorem effect_r0 (h : i.opcode ∉ [0x05#8, 0x07, 0x10, 0x14, 0x17, 0x22, 0x23, 0x29, 0x2B, 0x2C, 0x2D]) (s : State) :
    (effect i s).r0 = s.r0 := by
  cases i with
  | ir0 | dr0 | x01 | lr0 | mr0 _ | or0 _ | an0 _ | x03 | c30 | pl0 | pr0 => simp [Instr.opcode] at h
  | _ => rfl

theorem effect_r1 (h : i.opcode ∉ [0x06#8, 0x08, 0x09, 0x10, 0x15, 0x16, 0x18, 0x25, 0x27, 0x28]) (s : State) :
    (effect i s).r1 = s.r1 := by
  cases i with
  | a01 | s01 | x12 | x01 | lrw | taw | mrw _ _ | c01 | irw | drw => simp [Instr.opcode] at h
  | _ => rfl

theorem effect_r2 (h : i.opcode ∉ [0x06#8, 0x08, 0x09, 0x15, 0x16, 0x18, 0x26, 0x27, 0x28]) (s : State) :
    (effect i s).r2 = s.r2 := by
  cases i with
  | a01 | s01 | x12 | lrw | taw | mrw _ _ | c02 | irw | drw => simp [Instr.opcode] at h
  | _ => rfl

theorem effect_r3 (h : i.opcode ∉ [0x29#8, 0x2A]) (s : State) : (effect i s).r3 = s.r3 := by
  cases i with
  | x03 | c03 => simp [Instr.opcode] at h
  | _ => rfl

theorem effect_ar (h : i.opcode ∉ [0x01#8, 0x03, 0x04]) (s : State) : (effect i s).ar = s.ar := by
  cases i with
  | mar _ _ | rar | aar => simp [Instr.opcode] at h
  | _ => rfl

theorem effect_halted (h : i.opcode ≠ 0xFF) (s : State) : (effect i s).halted = s.halted := by
  cases i with
  | hlt => simp [Instr.opcode] at h
  | _ => rfl

theorem effect_readByte {a : Word} (h : a ∉ i.storesIn s) : (effect i s).readByte a = s.readByte a := by
  cases i with
  | sr0 => exact State.readByte_writeByte_other s (by simpa [Instr.storesIn] using h) _
  | sic | srw => exact storeTwo_readByte_other _ _ s h
  | _ => rfl

theorem effect_mem_wf (i : Instr) (h : Memory.wf s.cfg s.mem = true) :
    Memory.wf (effect i s).cfg (effect i s).mem = true := by
  cases i with
  | sr0 => exact State.wf_writeByte h _ _
  | sic | srw => exact storeTwo_mem_wf _ _ h
  | _ => exact h

/-- Settles O27: the instruction's effect keeps each register and cell by its own rule, and phase 5 moves IC alone. -/
theorem onlyListedInstructionsWrite : Obligations.OnlyListedInstructionsWrite := by
  intro i s t h
  obtain rfl := exec_next.1 h
  exact ⟨(effect_r0 · s), (effect_r1 · s), (effect_r2 · s), (effect_r3 · s), (effect_ar · s), (effect_halted · s),
    effect_tick i s, effect_tock i s, effect_li i s, effect_cfg i s, fun _ => effect_readByte⟩

end Sys2Proof.Machine
end

section
/-! Every step keeps the state invariant (spec/10_state.md R22): the parameters are never written, every store goes
through `State.writeByte`, and the latch is filled with what the fetch looked up (R71). -/

namespace Sys2Proof.Machine

variable {s t : State}

theorem format_length_bounds (f : Format) : 1 ≤ f.length ∧ f.length ≤ 3 := by cases f <;> decide

theorem State.wf_complete (opcode : Byte) (operands : List Byte) (h : Memory.wf s.cfg s.mem = true) :
    Memory.wf (s.complete opcode operands).cfg (s.complete opcode operands).mem = true :=
  State.wf_countStep h

/-- What phase 7 latches after a fetch is well formed: an opcode of the table, its length, its operand bytes (R18). -/
theorem fetch_ok_latchWf {g : Fetched} (h : fetch s = .ok g) :
    latchWf (some (latched g.opcode g.operands)) = true := by
  obtain ⟨d, rest, hlookup, hopcode, hoperands, -⟩ := fetch_ok h
  have hlength : g.operands.length + 1 = d.format.length := by
    have := (format_length_bounds d.format).1
    rw [hoperands, State.readRun_length]
    omega
  simp [latchWf, LastInstr.wf, latched, hopcode, hlookup, hlength, format_length_bounds]

/-- Settles O42: an idle step changes nothing, and a completed one keeps each of the three parts of the invariant. -/
theorem stepKeepsTheStateInvariant : Obligations.StepKeepsTheStateInvariant := by
  intro s t hinv h
  cases hhalted : s.halted with
  | true =>
    rw [step_of_halted hhalted] at h
    cases h
    exact hinv
  | false =>
    obtain ⟨hparams, hmem, -⟩ := State.inv_iff.1 hinv
    obtain ⟨g, hfetch, rfl⟩ := step_completed hhalted h
    refine State.inv_iff.2 ⟨by simpa using hparams, State.wf_complete _ _ ?_, fetch_ok_latchWf hfetch⟩
    simpa using effect_mem_wf g.instr hmem

end Sys2Proof.Machine
end

section
/-! What an instruction does not read (spec/10_state.md R11, the "read by" column; R14 to R16, R18). Two shapes: a
field outside the register file passes through `exec` unchanged, and a register that is not read reaches at most
itself. -/

namespace Sys2Proof.Machine

variable {i : Instr}

/-- A change of state that neither phase of the instruction sees passes through `exec`. -/
theorem exec_map {f : State → State} {s : State} (heffect : effect i (f s) = f (effect i s))
    (hic : nextIC i (f s) = nextIC i s) (hset : ∀ t w, (f t).setIC w = f (t.setIC w)) :
    exec i (f s) = mapNext f (exec i s) := by
  rw [exec_eq, exec_eq, heffect, hic, hset]
  rfl

theorem exec_tick (i : Instr) (s : State) (x : Byte) :
    exec i { s with tick := x } = mapNext (fun t => { t with tick := x }) (exec i s) :=
  exec_map (f := fun t => { t with tick := x }) (by cases i <;> rfl) (by cases i <;> rfl) fun _ _ => rfl

theorem exec_tock (i : Instr) (s : State) (x : Byte) :
    exec i { s with tock := x } = mapNext (fun t => { t with tock := x }) (exec i s) :=
  exec_map (f := fun t => { t with tock := x }) (by cases i <;> rfl) (by cases i <;> rfl) fun _ _ => rfl

theorem exec_li (i : Instr) (s : State) (l : Option LastInstr) :
    exec i { s with li := l } = mapNext (fun t => { t with li := l }) (exec i s) :=
  exec_map (f := fun t => { t with li := l }) (by cases i <;> rfl) (by cases i <;> rfl) fun _ _ => rfl

theorem exec_halted (h : i ≠ .hlt) (s : State) (b : Bool) :
    exec i { s with halted := b } = mapNext (fun t => { t with halted := b }) (exec i s) := by
  refine exec_map (f := fun t => { t with halted := b }) ?_ (by cases i <;> rfl) fun _ _ => rfl
  cases i with
  | hlt => exact absurd rfl h
  | _ => rfl

/-! Each register in turn: not read, so nothing but itself differs; and overwritten without being read, so nothing
differs. In the first the named cases are the instructions that read it, in the second those that only write it. -/

theorem exec_setR0_masked (s : State) (x y : Byte) (h : i.opcode ∉
      [0x04#8, 0x05, 0x06, 0x07, 0x08, 0x10, 0x12, 0x19, 0x22, 0x23, 0x24, 0x25, 0x26, 0x29, 0x2A, 0x2C, 0x2D]) :
    mapNext (·.setR0 y) (exec i (s.setR0 x)) = mapNext (·.setR0 y) (exec i s) := by
  rw [exec_eq, exec_eq]
  cases i with
  | aar | ir0 | a01 | dr0 | s01 | x01 | sr0 | jz0 | or0 _ | an0 _ | je0 _ | c01 | c02 | x03 | c03 | pl0 | pr0 =>
    simp [Instr.opcode] at h
  | _ => rfl

theorem exec_setR0_overwritten (s : State) (x : Byte) (h : i.opcode ∈ [0x14#8, 0x17, 0x2B]) :
    exec i (s.setR0 x) = exec i s := by
  cases i with
  | lr0 | mr0 _ | c30 => rfl
  | _ => simp [Instr.opcode] at h

theorem exec_setR1_masked (s : State) (x y : Byte)
    (h : i.opcode ∉ [0x03#8, 0x06, 0x08, 0x09, 0x10, 0x13, 0x20, 0x21, 0x27, 0x28]) :
    mapNext (·.setR1 y) (exec i (s.setR1 x)) = mapNext (·.setR1 y) (exec i s) := by
  rw [exec_eq, exec_eq]
  cases i with
  | rar | a01 | s01 | x12 | x01 | srw | jgw | jew | irw | drw => simp [Instr.opcode] at h
  | _ => rfl

theorem exec_setR1_overwritten (s : State) (x : Byte) (h : i.opcode ∈ [0x15#8, 0x16, 0x18, 0x25]) :
    exec i (s.setR1 x) = exec i s := by
  cases i with
  | lrw | taw | mrw _ _ | c01 => rfl
  | _ => simp [Instr.opcode] at h

theorem exec_setR2_masked (s : State) (x y : Byte)
    (h : i.opcode ∉ [0x03#8, 0x06, 0x08, 0x09, 0x13, 0x20, 0x21, 0x27, 0x28]) :
    mapNext (·.setR2 y) (exec i (s.setR2 x)) = mapNext (·.setR2 y) (exec i s) := by
  rw [exec_eq, exec_eq]
  cases i with
  | rar | a01 | s01 | x12 | srw | jgw | jew | irw | drw => simp [Instr.opcode] at h
  | _ => rfl

theorem exec_setR2_overwritten (s : State) (x : Byte) (h : i.opcode ∈ [0x15#8, 0x16, 0x18, 0x26]) :
    exec i (s.setR2 x) = exec i s := by
  cases i with
  | lrw | taw | mrw _ _ | c02 => rfl
  | _ => simp [Instr.opcode] at h

theorem exec_setR3_masked (s : State) (x y : Byte) (h : i.opcode ∉ [0x29#8, 0x2B]) :
    mapNext (·.setR3 y) (exec i (s.setR3 x)) = mapNext (·.setR3 y) (exec i s) := by
  rw [exec_eq, exec_eq]
  cases i with
  | x03 | c30 => simp [Instr.opcode] at h
  | _ => rfl

theorem exec_setR3_overwritten (s : State) (x : Byte) (h : i.opcode ∈ [0x2A#8]) :
    exec i (s.setR3 x) = exec i s := by
  cases i with
  | c03 => rfl
  | _ => simp [Instr.opcode] at h

theorem exec_setAR_masked (s : State) (a b : Word)
    (h : i.opcode ∉ [0x02#8, 0x04, 0x11, 0x12, 0x13, 0x14, 0x15, 0x16, 0x19, 0x20, 0x21, 0x24]) :
    mapNext (·.setAR b) (exec i (s.setAR a)) = mapNext (·.setAR b) (exec i s) := by
  rw [exec_eq, exec_eq]
  cases i with
  | sic | aar | jmp | sr0 | srw | lr0 | lrw | taw | jz0 | jgw | jew | je0 _ => simp [Instr.opcode] at h
  | _ => rfl

theorem exec_setAR_overwritten (s : State) (a : Word) (h : i.opcode ∈ [0x01#8, 0x03]) :
    exec i (s.setAR a) = exec i s := by
  cases i with
  | mar _ _ | rar => rfl
  | _ => simp [Instr.opcode] at h

theorem exec_setIC_masked (s : State) (a b : Word) (h : i.opcode ≠ 0x02) :
    mapNext (·.setIC b) (exec i (s.setIC a)) = mapNext (·.setIC b) (exec i s) := by
  rw [exec_eq, exec_eq]
  cases i with
  | sic => simp [Instr.opcode] at h
  | _ => rfl

/-- Settles O28: register by register. -/
theorem onlyListedInstructionsRead : Obligations.OnlyListedInstructionsRead := fun _ s x y a b =>
  ⟨exec_setR0_masked s x y, exec_setR0_overwritten s x, exec_setR1_masked s x y, exec_setR1_overwritten s x,
    exec_setR2_masked s x y, exec_setR2_overwritten s x, exec_setR3_masked s x y, exec_setR3_overwritten s x,
    exec_setAR_masked s a b, exec_setAR_overwritten s a, exec_setIC_masked s a b⟩

end Sys2Proof.Machine
end

section
/-! The trace latch is written by the step and read by nothing in it (spec/10_state.md R18). -/

namespace Sys2Proof.Machine

/-- Settles O39: the latch reaches neither the fetch nor the instruction, and a completed step overwrites it. -/
theorem latchDoesNotInfluenceTheStep : Obligations.LatchDoesNotInfluenceTheStep := by
  intro s l l'
  by_cases hhalted : s.halted = true
  · rw [step_of_halted hhalted, step_of_halted (s := { s with li := l }) hhalted]
    rfl
  · have hrun : s.halted = false := by simpa using hhalted
    have hfetch : fetch { s with li := l } = fetch s := fetch_congr rfl fun _ => rfl
    cases hg : fetch s with
    | error f => rw [step_of_fetch_error hrun hg, step_of_fetch_error (s := { s with li := l }) hrun (hfetch.trans hg)]
    | ok g =>
      obtain ⟨u, hu⟩ : ∃ u, exec g.instr s = .next u := ⟨_, exec_eq _ _⟩
      have hu' : exec g.instr { s with li := l } = .next { u with li := l } := by rw [exec_li, hu]; rfl
      rw [step_of_fetch_ok hrun hg hu, step_of_fetch_ok (s := { s with li := l }) hrun (hfetch.trans hg) hu']
      rfl

end Sys2Proof.Machine
end

section
/-! The counters over steps and runs (spec/10_state.md R14, R15; spec/40_execution_cycle.md R70). -/

namespace Sys2Proof.Machine

variable {s t : State}

theorem nextTick_toNat (x : Byte) : (nextTick x).toNat = (x.toNat + 1) % 256 := by simp [nextTick]

theorem nextTock_toNat (x : Byte) : (nextTock x).toNat = x.toNat - 1 := by
  by_cases hzero : x = 0
  · simp [nextTock, hzero]
  · have hpos : 1 ≤ x.toNat := by
      have : x.toNat ≠ 0 := fun h => hzero (BitVec.eq_of_toNat_eq h)
      omega
    simp only [nextTock, hzero, if_false]
    exact BitVec.toNat_sub_of_le hpos

theorem zext16_injective : Function.Injective zext16 := fun x y h =>
  BitVec.eq_of_toNat_eq (by simpa using congrArg BitVec.toNat h)

/-- The bounds of R6 keep the four cells of the I/O page apart; these two pairs are what the counters and reset need. -/
theorem Params.cells_apart {p : Params} (h : p.wf = true) : p.tickAddr ≠ p.tockAddr ∧ p.flagAddr ≠ p.tockAddr := by
  have hnodup : [p.addrFlag, p.addrTick, p.addrTock, p.addrJoy].Nodup := by
    simp only [Params.wf, Bool.and_eq_true, decide_eq_true_eq] at h
    exact h.1.1.1.1
  refine ⟨fun e => ?_, fun e => ?_⟩
  · simp [zext16_injective e] at hnodup
  · simp [zext16_injective e] at hnodup

theorem step_tick (hrun : s.halted = false) (h : step s = .next t) : t.tick = nextTick s.tick := by
  obtain ⟨g, -, rfl⟩ := step_completed hrun h
  simp

theorem step_tock (hrun : s.halted = false) (h : step s = .next t) : t.tock = nextTock s.tock := by
  obtain ⟨g, -, rfl⟩ := step_completed hrun h
  simp

/-- The tock cell is written last, so it shows tock wherever the cells are (D24, log 17). -/
theorem step_tock_mirrored (hrun : s.halted = false) (h : step s = .next t) : t.readByte t.cfg.tockAddr = t.tock := by
  obtain ⟨g, -, rfl⟩ := step_completed hrun h
  simp [State.readByte_countStep]

theorem step_tick_mirrored (hcells : s.cfg.tickAddr ≠ s.cfg.tockAddr) (hrun : s.halted = false)
    (h : step s = .next t) : t.readByte t.cfg.tickAddr = t.tick := by
  obtain ⟨g, -, rfl⟩ := step_completed hrun h
  simp [State.readByte_countStep, hcells]

/-- No step wakes a halted core (R66). -/
theorem running_of_step (h : step s = .next t) (hend : t.halted = false) : s.halted = false := by
  rcases step_next_cases h with ⟨-, rfl⟩ | ⟨hrun, -⟩
  · exact hend
  · exact hrun

theorem running_of_runSteps {n : Nat} (h : runSteps n s = .next t) (hend : t.halted = false) : s.halted = false := by
  induction n generalizing s with
  | zero => cases h; exact hend
  | succ n ih =>
    obtain ⟨u, hstep, hrest⟩ := runSteps_succ_next h
    exact running_of_step hstep (ih hrest)

/-- A run that ends not halted has had no idle step, so each of its steps took one from tock, down to 0 (R15). -/
theorem runSteps_tock {n : Nat} (h : runSteps n s = .next t) (hend : t.halted = false) :
    t.tock.toNat = s.tock.toNat - n := by
  induction n generalizing s with
  | zero => cases h; rfl
  | succ n ih =>
    obtain ⟨u, hstep, hrest⟩ := runSteps_succ_next h
    have hfirst : u.tock.toNat = s.tock.toNat - 1 := by
      rw [step_tock (running_of_runSteps h hend) hstep, nextTock_toNat]
    rw [ih hrest, hfirst]
    omega

/-- Settles O33. -/
theorem tickCountsCompletedSteps : Obligations.TickCountsCompletedSteps :=
  ⟨rfl, fun _ _ hwf hrun h =>
    ⟨by rw [step_tick hrun h, nextTick_toNat], step_tick_mirrored (Params.cells_apart hwf).1 hrun h⟩, exec_tick⟩

/-- Settles O34: the count over a run is `runSteps_tock` from 255. -/
theorem tockCountsDownAndHolds : Obligations.TockCountsDownAndHolds := by
  refine ⟨rfl, fun s t hrun h => ⟨?_, step_tock_mirrored hrun h⟩, fun n s t hstart h hend => ?_, exec_tock⟩
  · rw [step_tock hrun h, nextTock_toNat]
    split <;> omega
  · have hcount : t.tock.toNat = 255 - n := by rw [runSteps_tock h hend, hstart]; rfl
    rw [BitVec.toNat_eq, hcount]
    exact Nat.sub_eq_zero_iff_le

end Sys2Proof.Machine
end

section
/-! The halt flag (spec/10_state.md R16): only HLT sets it, and the step runs HLT exactly where the byte at IC is
FF. -/

namespace Sys2Proof.Machine

variable {s : State}

theorem decodeOp1_ok {op : Byte} {f : Byte → Instr} {bs rest : List Byte} {i : Instr}
    (h : decodeOp1 op f bs = .ok (i, rest)) : ∃ op1, i = f op1 := by
  cases bs with
  | nil => cases h
  | cons op1 bs => cases h; exact ⟨op1, rfl⟩

theorem decodeOp12_ok {op : Byte} {f : Byte → Byte → Instr} {bs rest : List Byte} {i : Instr}
    (h : decodeOp12 op f bs = .ok (i, rest)) : ∃ op1 op2, i = f op1 op2 := by
  match bs, h with
  | op1 :: op2 :: _, h => cases h; exact ⟨op1, op2, rfl⟩

/-- The decoder answers the instruction whose opcode byte it was given (R51). -/
theorem decode_ok_opcode {op : Byte} {bs rest : List Byte} {i : Instr} (h : decode (op :: bs) = .ok (i, rest)) :
    i.opcode = op := by
  apply BitVec.eq_of_toNat_eq
  simp only [decode] at h
  split at h
  -- the two F3 instructions, then the four F2 ones, then the bytes that are no opcode; the rest have no operand
  case h_2 | h_19 =>
    obtain ⟨op1, op2, rfl⟩ := decodeOp12_ok h
    exact ‹op.toNat = _›.symm
  case h_18 | h_23 | h_24 | h_25 =>
    obtain ⟨op1, rfl⟩ := decodeOp1_ok h
    exact ‹op.toNat = _›.symm
  case h_36 => cases h
  all_goals
    cases h
    exact ‹op.toNat = _›.symm

theorem opcode_eq_FF_iff (i : Instr) : i.opcode = 0xFF ↔ i = .hlt := by
  cases i <;> simp [Instr.opcode]

theorem effect_halted_iff (i : Instr) (hrun : s.halted = false) : (effect i s).halted = true ↔ i = .hlt := by
  by_cases hi : i = .hlt
  · subst hi
    simp [effect]
  · rw [effect_halted (mt (opcode_eq_FF_iff i).1 hi), hrun]
    simp [hi]

theorem fetch_ok_opcode {g : Fetched} (h : fetch s = .ok g) : g.instr.opcode = s.readByte s.ic := by
  obtain ⟨d, rest, -, hopcode, -, hdecode⟩ := fetch_ok h
  rw [decode_ok_opcode hdecode, hopcode]

theorem step_halted_iff {t : State} (hrun : s.halted = false) (h : step s = .next t) :
    t.halted = true ↔ s.readByte s.ic = 0xFF := by
  obtain ⟨g, hfetch, rfl⟩ := step_completed hrun h
  rw [← fetch_ok_opcode hfetch, opcode_eq_FF_iff]
  simpa using effect_halted_iff g.instr hrun

@[simp] theorem State.writeRun_halted (s : State) (a : Word) (bs : List Byte) :
    (s.writeRun a bs).halted = s.halted := by
  rw [State.writeRun_frame]

theorem hostAfter_halted (s : State) {m : HostMove} (hinit : m ≠ .init) (hstep : m ≠ .step) :
    (hostAfter s m).halted = s.halted := by
  cases m with
  | init => exact absurd rfl hinit
  | step => exact absurd rfl hstep
  | load bytes => exact State.writeRun_halted s _ bytes
  | writeDigitalInput v => rfl
  | setUpdateFlag v => rfl
  | setPixel x y br cm =>
    simp only [hostAfter, hostMove, setPixel]
    cases pixelAddress x y <;> rfl
  | resetFrame => exact State.writeRun_halted s _ _

/-- Settles O37. -/
theorem haltedIsSetByHltAlone : Obligations.HaltedIsSetByHltAlone := by
  refine ⟨rfl, fun _ => rfl, fun s t h => ⟨fun hhalted => ?_, fun hrun => step_halted_iff hrun h⟩,
    fun _ => step_of_halted, fun s _ => hostAfter_halted s, fun _ s b hi => exec_halted hi s b, fun _ _ => rfl,
    fun _ => ⟨rfl, fun _ _ => rfl⟩⟩
  rw [step_of_halted hhalted] at h
  cases h
  rfl

end Sys2Proof.Machine
end

section
/-! The contents of memory right after reset (spec/10_state.md R21), range by range. -/

namespace Sys2Proof.Machine

variable {p : Params}

/-- Reset lists no cell, so each reads as unlisted. -/
theorem readByte_resetWith (p : Params) (a : Word) : (State.resetWith p).readByte a = unlistedByte p a.toNat := rfl

theorem flagAddr_lt (p : Params) : p.flagAddr.toNat < 0x0100 :=
  (zext16_toNat p.addrFlag).trans_lt p.addrFlag.isLt

theorem tockAddr_lt (p : Params) : p.tockAddr.toNat < 0x0100 :=
  (zext16_toNat p.addrTock).trans_lt p.addrTock.isLt

theorem unlistedByte_flag (p : Params) : unlistedByte p p.flagAddr.toNat = p.flagSetValue := by
  simp [unlistedByte, flagAddr_lt]

theorem unlistedByte_tock (h : p.flagAddr ≠ p.tockAddr) : unlistedByte p p.tockAddr.toNat = p.tockCellAtInit := by
  simp [unlistedByte, tockAddr_lt, ← BitVec.toNat_eq, h.symm]

theorem unlistedByte_ioPage {a : Word} (ha : a.toNat < 0x0100) (hflag : a ≠ p.flagAddr) (htock : a ≠ p.tockAddr) :
    unlistedByte p a.toNat = 0x00 := by
  simp [unlistedByte, ha, ← BitVec.toNat_eq, hflag, htock]

theorem unlistedByte_program {a : Nat} (hlow : 0x0100 ≤ a) (hhigh : a < 0xE000) : unlistedByte p a = 0xFF := by
  rw [unlistedByte, if_neg (by omega), if_pos hhigh]

theorem unlistedByte_planes {a : Nat} (ha : 0xE000 ≤ a) :
    unlistedByte p a = p.startupFrame.getD (a - 0xE000) 0x00 := by
  rw [unlistedByte, if_neg (by omega), if_neg (by omega)]

/-- Settles O50: the registers by definition, the cells range by range. -/
theorem resetLeavesTheTableOfR21 : Obligations.ResetLeavesTheTableOfR21 := by
  refine ⟨rfl, ?_⟩
  rintro p hwf _ rfl
  exact ⟨rfl, rfl, rfl, rfl, rfl, rfl, rfl, rfl, rfl, rfl, unlistedByte_flag p,
    unlistedByte_tock (Params.cells_apart hwf).2, fun _ => unlistedByte_ioPage, fun _ => unlistedByte_program,
    fun _ => unlistedByte_planes⟩

end Sys2Proof.Machine
end

section
/-! Memory at the ports (spec/20_memory.md R31, R32): any integer address is taken mod 65536, any value mod 256. -/

namespace Sys2Proof.Machine

theorem wrapAddr_eq_iff {a b : Int} : wrapAddr b = wrapAddr a ↔ b % 65536 = a % 65536 := by
  rw [wrapAddr, wrapAddr, ← BitVec.toNat_inj, BitVec.toNat_ofInt, BitVec.toNat_ofInt]
  omega

theorem wrapByte_toNat (v : Int) : (wrapByte v).toNat = (v % 256).toNat := by simp [wrapByte, BitVec.toNat_ofInt]

theorem State.memRead_memWrite (s : State) (a v b : Int) :
    (s.memWrite a v).memRead b = if b % 65536 = a % 65536 then wrapByte v else s.memRead b := by
  simp only [State.memWrite, State.memRead, State.readByte_writeByte, wrapAddr_eq_iff]

theorem State.memRead_congr (s : State) {a b : Int} (h : b % 65536 = a % 65536) : s.memRead b = s.memRead a := by
  rw [State.memRead, State.memRead, wrapAddr_eq_iff.2 h]

/-- Settles O49. -/
theorem memoryReadsTheLatestWrite : Obligations.MemoryReadsTheLatestWrite := by
  intro s a v b
  refine ⟨?_, s.memRead_congr (by omega), rfl⟩
  rw [State.memRead_memWrite, apply_ite BitVec.toNat, wrapByte_toNat]

end Sys2Proof.Machine
end

section
/-! The cells a step writes (spec/20_memory.md R33, R37): the instruction's own stores, then the two mirror cells. -/

namespace Sys2Proof.Machine

variable {s t : State}

/-- Every cell outside the instruction's stores and the mirrors passes through all the phases of the step. -/
theorem readByte_complete_effect {i : Instr} {a ic : Word} (opcode : Byte) (operands : List Byte)
    (htick : a ≠ s.cfg.tickAddr) (htock : a ≠ s.cfg.tockAddr) :
    (((effect i s).setIC ic).complete opcode operands).readByte a = (effect i s).readByte a := by
  rw [State.readByte_complete, State.readByte_countStep_other _ (by simpa using htick) (by simpa using htock),
    State.readByte_setIC]

/-- Settles O38: the mirrors are the only cells phases 6 and 7 write, and phase 4 keeps all but its stores. -/
theorem stepWritesOnlyStoresAndMirrors : Obligations.StepWritesOnlyStoresAndMirrors := by
  intro s t g hrun hfetch h
  obtain rfl : t = ((effect g.instr s).setIC (nextIC g.instr s)).complete g.opcode g.operands := by
    obtain ⟨g', hfetch', ht⟩ := step_completed hrun h
    cases hfetch.symm.trans hfetch'
    exact ht
  refine ⟨by simp, fun a ha => ?_⟩
  simp only [List.mem_cons, not_or] at ha
  obtain ⟨htick, htock, hstores⟩ := ha
  rw [readByte_complete_effect _ _ htick htock, effect_readByte hstores]

end Sys2Proof.Machine
end

section
/-! A store is seen by the next fetch (spec/20_memory.md R41). A fetch reads memory as it stands, so it gives
whichever instruction's bytes stand at IC, and nothing of the step remembers what stood there before. -/

namespace Sys2Proof

/-- The decoder reads back what the encoder wrote, whatever follows it (R51, R52). -/
theorem decode_encode_append (i : Instr) (rest : List Byte) : decode (encode i ++ rest) = .ok (i, rest) := by
  cases i <;> rfl

theorem lookupOpcode_opcode (i : Instr) : ∃ d, lookupOpcode i.opcode = some d ∧ d.format = i.format := by
  cases i <;> exact ⟨_, rfl, rfl⟩

theorem Instr.operands_length (i : Instr) : i.operands.length = i.format.length - 1 := by
  have hwf : i.operands.length + 1 = i.format.length := by simpa [Instr.wf] using i.wf_all
  omega

namespace Machine

variable {s : State}

/-- Where an instruction's opcode and operand bytes stand at IC, the fetch gives that instruction (R67). -/
theorem fetch_of_bytes {i : Instr} (hopcode : s.readByte s.ic = i.opcode)
    (hoperands : s.readRun (s.ic + 1) i.operands.length = i.operands) :
    fetch s = .ok ⟨i, i.opcode, i.operands⟩ := by
  obtain ⟨d, hlookup, hformat⟩ := lookupOpcode_opcode i
  have hdecode : decode (i.opcode :: i.operands) = .ok (i, []) := by
    simpa [encode] using decode_encode_append i []
  rw [Instr.operands_length] at hoperands
  simp only [fetch, hopcode, hlookup, hformat, hoperands, hdecode]

/-- An instruction without operands is fetched from its opcode byte alone. -/
theorem fetch_of_opcode {i : Instr} (hbyte : s.readByte s.ic = i.opcode) (hoperands : i.operands = []) :
    fetch s = .ok ⟨i, i.opcode, []⟩ := by
  have h := fetch_of_bytes hbyte (by simp [hoperands, State.readRun])
  rwa [hoperands] at h

theorem effect_sr0_readByte (s : State) : (effect .sr0 s).readByte s.ar = s.r0 := State.readByte_writeByte_self s _ _

/-- Settles O40: SR0 leaves R0 in the cell it leaves IC at, and the mirrors stand elsewhere. -/
theorem storeIsSeenByTheNextFetch : Obligations.StoreIsSeenByTheNextFetch := by
  intro s i hrun hbyte har hr0 hoperands htick htock
  have hstep : step s = .next (((effect .sr0 s).setIC (s.ic + 1)).complete 0x12 []) :=
    step_of_fetch_ok hrun (fetch_of_opcode (i := .sr0) hbyte rfl) (exec_eq _ _)
  refine ⟨_, hstep, hrun, har.symm, fetch_of_opcode ?_ hoperands⟩
  rw [State.complete_ic, State.setIC_ic, ← har, readByte_complete_effect _ _ htick htock, effect_sr0_readByte, hr0]

end Machine
end Sys2Proof
end

section
/-! The decoder table (spec/30_encoding.md R53, R54): its 35 rows, the bytes that have none, and the instruction each
row stands for. -/

namespace Sys2Proof

/-- R54: the bytes without a table entry are three ranges. There are 256 bytes to look up. -/
theorem lookupOpcode_eq_none_iff : ∀ b : Byte, lookupOpcode b = none ↔
    (0x0A ≤ b.toNat ∧ b.toNat ≤ 0x0F) ∨ (0x1A ≤ b.toNat ∧ b.toNat ≤ 0x1F) ∨ (0x2E ≤ b.toNat ∧ b.toNat ≤ 0xFE) := by
  decide

/-- R54: the three ranges hold 221 bytes. -/
theorem count_lookupOpcode_none :
    ((List.range 256).filter fun n => (lookupOpcode (BitVec.ofNat 8 n)).isNone).length = 221 := by
  have hrange : ∀ n ∈ List.range 256, (lookupOpcode (BitVec.ofNat 8 n)).isNone = decide
      ((0x0A ≤ n ∧ n ≤ 0x0F) ∨ (0x1A ≤ n ∧ n ≤ 0x1F) ∨ (0x2E ≤ n ∧ n ≤ 0xFE)) := by
    intro n hn
    have hbyte : (BitVec.ofNat 8 n).toNat = n := Nat.mod_eq_of_lt (List.mem_range.1 hn)
    rw [Bool.eq_iff_iff, Option.isNone_iff_eq_none, lookupOpcode_eq_none_iff, hbyte, decide_eq_true_iff]
  rw [List.filter_congr hrange]
  rfl

/-- Settles O47: the rows by definition, the bytes without one by the three ranges. -/
theorem decoderTableSplitsTheBytes : Obligations.DecoderTableSplitsTheBytes :=
  ⟨rfl, by decide, rfl, count_lookupOpcode_none, lookupOpcode_eq_none_iff⟩

/-- Settles O46: the decoder run on each word. -/
theorem exampleWordsDecode : Obligations.ExampleWordsDecode := ⟨rfl, rfl, rfl, rfl, rfl, rfl, rfl, rfl, rfl⟩

theorem decode_table_row : ∀ d ∈ instructionTable, (decode [d.opcode, 0x00, 0x00]).isOk = true := by decide

/-- No row of the table is idle: each is the row of an instruction. -/
theorem exists_instr_of_lookupOpcode {op : Byte} {d : Descriptor} (h : lookupOpcode op = some d) :
    ∃ i : Instr, i.opcode = op := by
  have hop : d.opcode = op := by simpa using List.find?_some h
  have hrow := decode_table_row d (List.mem_of_find?_eq_some h)
  rw [hop] at hrow
  match hdecode : decode [op, 0x00, 0x00], hrow with
  | .ok (i, _), _ => exact ⟨i, Machine.decode_ok_opcode hdecode⟩

theorem operands_length_of_lookupOpcode {i : Instr} {d : Descriptor} (h : lookupOpcode i.opcode = some d) :
    i.operands.length + 1 = d.format.length := by
  obtain ⟨d', hlookup, hformat⟩ := lookupOpcode_opcode i
  cases h.symm.trans hlookup
  rw [hformat]
  simpa [Instr.wf] using i.wf_all

end Sys2Proof
end

section
/-! Decoding and encoding agree (spec/30_encoding.md R50 to R54). The table says which of its three answers the decoder
gives: InvalidOpcode without a row, otherwise an instruction or, where the bytes end early, MissingOperand. -/

namespace Sys2Proof

/-- On the opcode byte of an instruction the decoder either lacks operand bytes or splits them off, whatever they
are. -/
theorem decode_opcode_cases (i : Instr) (bs : List Byte) :
    (bs.length < i.operands.length ∧ decode (i.opcode :: bs) = .error (.missingOperand i.opcode)) ∨
      ∃ j rest, decode (i.opcode :: bs) = .ok (j, rest) ∧ bs = j.operands ++ rest := by
  cases i with
  | mar _ _ | mrw _ _ =>
    match bs with
    | [] | [_] => exact .inl ⟨by simp [Instr.operands], rfl⟩
    | _ :: _ :: _ => exact .inr ⟨_, _, rfl, rfl⟩
  | mr0 _ | or0 _ | an0 _ | je0 _ =>
    match bs with
    | [] => exact .inl ⟨by simp [Instr.operands], rfl⟩
    | _ :: _ => exact .inr ⟨_, _, rfl, rfl⟩
  | _ => exact .inr ⟨_, _, rfl, rfl⟩

/-- What the decoder accepts is the encoding of what it answers (R51, R52). -/
theorem eq_encode_of_decode {bs rest : List Byte} {i : Instr} (h : decode bs = .ok (i, rest)) :
    bs = encode i ++ rest := by
  cases bs with
  | nil => cases h
  | cons op bs =>
    obtain rfl := Machine.decode_ok_opcode h
    rcases decode_opcode_cases i bs with ⟨-, herror⟩ | ⟨j, rest', hok, hbs⟩
    · cases herror.symm.trans h
    · cases hok.symm.trans h
      rw [hbs]
      rfl

theorem decode_of_lookupOpcode_none {op : Byte} (h : lookupOpcode op = none) (bs : List Byte) :
    decode (op :: bs) = .error (.invalidOpcode op) := by
  have hrange := (lookupOpcode_eq_none_iff op).1 h
  simp only [decode]
  split
  case h_36 => rfl
  all_goals omega

theorem decode_of_lookupOpcode_some {op : Byte} {d : Descriptor} (h : lookupOpcode op = some d) (bs : List Byte) :
    (bs.length + 1 < d.format.length ∧ decode (op :: bs) = .error (.missingOperand op)) ∨
      (d.format.length ≤ bs.length + 1 ∧ ∃ p, decode (op :: bs) = .ok p) := by
  obtain ⟨i, rfl⟩ := exists_instr_of_lookupOpcode h
  rcases decode_opcode_cases i bs with ⟨hshort, herror⟩ | ⟨j, rest, hok, hbs⟩
  · have hlength := operands_length_of_lookupOpcode h
    exact .inl ⟨by omega, herror⟩
  · rw [← Machine.decode_ok_opcode hok] at h
    have hlength := operands_length_of_lookupOpcode h
    have hbytes : bs.length = j.operands.length + rest.length := by rw [hbs, List.length_append]
    exact .inr ⟨by omega, _, hok⟩

theorem decode_eq_invalidOpcode_iff (op : Byte) (bs : List Byte) :
    decode (op :: bs) = .error (.invalidOpcode op) ↔ lookupOpcode op = none := by
  refine ⟨fun hdecode => ?_, fun h => decode_of_lookupOpcode_none h bs⟩
  cases h : lookupOpcode op with
  | none => rfl
  | some d =>
    rcases decode_of_lookupOpcode_some h bs with ⟨-, herror⟩ | ⟨-, p, hok⟩
    · cases herror.symm.trans hdecode
    · cases hok.symm.trans hdecode

theorem decode_eq_missingOperand_iff (op : Byte) (bs : List Byte) :
    decode (op :: bs) = .error (.missingOperand op) ↔
      ∃ d, lookupOpcode op = some d ∧ bs.length + 1 < d.format.length := by
  cases h : lookupOpcode op with
  | none => simp [decode_of_lookupOpcode_none h]
  | some d =>
    rcases decode_of_lookupOpcode_some h bs with ⟨hshort, herror⟩ | ⟨hlong, p, hok⟩
    · simp [herror, hshort]
    · simp [hok, hlong]

/-- Settles O45: both directions from the split of the bytes after an opcode, both rejections from the table. -/
theorem decodeAndEncodeAgree : Obligations.DecodeAndEncodeAgree :=
  ⟨fun i rest _ => decode_encode_append i rest, fun _ _ _ => eq_encode_of_decode, decode_eq_invalidOpcode_iff,
    decode_eq_missingOperand_iff⟩

end Sys2Proof
end

section
/-! The fault of a byte that is no opcode (spec/30_encoding.md R54, spec/60_exceptions.md R140): the fetch raises it, and
the host finds the state it stepped from. -/

namespace Sys2Proof.Machine

variable {s : State}

theorem fetch_of_lookupOpcode_none (h : lookupOpcode (s.readByte s.ic) = none) :
    fetch s = .error (raiseInvalidOpcode s) := by simp [fetch, h]

/-- A fault leaves the state with the host as it was (D14, log 12). -/
theorem stepPort_of_fault {f : Fault} (hrun : s.halted = false) (h : step s = .fault f) :
    stepPort s = (.fault f, s) := by simp [stepPort, hrun, h]

/-- Settles O31: the three ranges are the bytes without a table entry, and the same state faults the same again. -/
theorem invalidOpcodeFaultsForEver : Obligations.InvalidOpcodeFaultsForEver := by
  intro s hrun hrange
  have hstep := step_of_fetch_error hrun (fetch_of_lookupOpcode_none ((lookupOpcode_eq_none_iff _).2 hrange))
  have hport := stepPort_of_fault hrun hstep
  exact ⟨hstep, hport, by rw [hport, hport]⟩

end Sys2Proof.Machine
end

section
/-! The control outcome of each instruction (spec/40_execution_cycle.md R69, spec/46_control.md R137): the three values
phase 5 can leave in IC, in the numbers of the spec. -/

namespace Sys2Proof

theorem encode_length (i : Instr) : (encode i).length = i.format.length := by
  simpa [encode, Instr.wf] using i.wf_all

namespace Machine

variable {i : Instr} {s : State}

theorem nextIC_hlt (s : State) : nextIC .hlt s = s.ic := rfl

theorem nextIC_of_ne_hlt (hi : i ≠ .hlt) (s : State) :
    nextIC i s = if i.jumpsIn s then s.ar else s.ic + BitVec.ofNat 16 (encode i).length := by
  rw [encode_length]
  unfold nextIC
  split
  · exact absurd rfl hi
  · rfl

theorem nextIC_toNat_of_advance (hi : i ≠ .hlt) (hjump : i.jumpsIn s = false) :
    (nextIC i s).toNat = (s.ic.toNat + (encode i).length) % 65536 := by
  simp [nextIC_of_ne_hlt hi, hjump]

theorem effect_halted_eq_true_iff (i : Instr) (s : State) :
    (effect i s).halted = true ↔ s.halted = true ∨ i = .hlt := by
  by_cases hi : i = .hlt
  · subst hi
    simp [effect]
  · rw [effect_halted (mt (opcode_eq_FF_iff i).1 hi)]
    simp [hi]

/-- Settles O26: phase 4 sets the halt flag, and phase 5 leaves IC by one of three rules. -/
theorem instructionAppliesOneControlOutcome : Obligations.InstructionAppliesOneControlOutcome := by
  intro i s t h
  obtain rfl := exec_next.1 h
  refine ⟨?_, effect_halted_eq_true_iff i s⟩
  rw [State.setIC_ic]
  split
  case isTrue hi => rw [hi, nextIC_hlt]
  case isFalse hi =>
    split
    case isTrue hjump => rw [nextIC_of_ne_hlt hi, if_pos hjump]
    case isFalse hjump => exact nextIC_toNat_of_advance hi (by simpa using hjump)

end Machine
end Sys2Proof
end

section
/-! The laws of spec/40_execution_cycle.md R73 over runs of any length: the counters after completed steps, and IC after
steps that neither jump nor halt. -/

namespace Sys2Proof.Machine

variable {n : Nat} {s t : State}

/-- A run that ends not halted has had no idle step, so each of its steps added one to tick, mod 256 (R14). -/
theorem runSteps_tick (h : runSteps n s = .next t) (hend : t.halted = false) :
    t.tick.toNat = (s.tick.toNat + n) % 256 := by
  induction n generalizing s with
  | zero => cases h; exact (Nat.mod_eq_of_lt t.tick.isLt).symm
  | succ n ih =>
    obtain ⟨u, hstep, hrest⟩ := runSteps_succ_next h
    have hfirst : u.tick.toNat = (s.tick.toNat + 1) % 256 := by
      rw [step_tick (running_of_runSteps h hend) hstep, nextTick_toNat]
    rw [ih hrest, hfirst]
    omega

/-- Settles O35. -/
theorem countersAfterAnyRun : Obligations.CountersAfterAnyRun :=
  fun _ _ _ h hend => ⟨runSteps_tick h hend, runSteps_tock h hend⟩

/-- The bytes a fetch takes are as many as the encoding of its instruction has (R50). -/
theorem fetch_ok_length {g : Fetched} (h : fetch s = .ok g) : g.operands.length + 1 = (encode g.instr).length := by
  obtain ⟨d, rest, hlookup, -, hoperands, -⟩ := fetch_ok h
  rw [← fetch_ok_opcode h] at hlookup
  have hlength := operands_length_of_lookupOpcode hlookup
  rw [hoperands, State.readRun_length, encode, List.length_cons]
  omega

/-- What a straight run's first step is: a completed step of an instruction that neither jumps nor halts, and a
straight run from where it leads. -/
theorem straightRun_succ {lens : List Nat} (h : straightRun (n + 1) s = some (t, lens)) :
    ∃ g u lens', fetch s = .ok g ∧ step s = .next u ∧ s.halted = false ∧ g.instr.jumpsIn s = false ∧
      g.instr ≠ .hlt ∧ straightRun n u = some (t, lens') ∧ lens = (encode g.instr).length :: lens' := by
  simp only [straightRun] at h
  split at h
  · rename_i g u hfetch hstep
    split at h
    · cases h
    · rename_i hstraight
      obtain ⟨⟨hrun, hjump⟩, hhlt⟩ : (s.halted = false ∧ g.instr.jumpsIn s = false) ∧ g.instr ≠ .hlt := by
        simpa using hstraight
      obtain ⟨⟨t', lens'⟩, hrest, heq⟩ := Option.map_eq_some_iff.1 h
      cases heq
      exact ⟨g, u, lens', hfetch, hstep, hrun, hjump, hhlt, hrest, by rw [fetch_ok_length hfetch]⟩
  · cases h

theorem step_ic_of_advance {g : Fetched} (hrun : s.halted = false) (hfetch : fetch s = .ok g)
    (hstep : step s = .next t) (hjump : g.instr.jumpsIn s = false) (hhlt : g.instr ≠ .hlt) :
    t.ic.toNat = (s.ic.toNat + (encode g.instr).length) % 65536 := by
  obtain ⟨g', hfetch', rfl⟩ := step_completed hrun hstep
  cases hfetch.symm.trans hfetch'
  exact nextIC_toNat_of_advance hhlt hjump

/-- Settles O36, by induction on the number of steps: each adds the length of its instruction to IC. -/
theorem straightRunAdvancesByTheLengths : Obligations.StraightRunAdvancesByTheLengths := by
  intro n
  induction n with
  | zero =>
    intro s t lens h
    cases h
    exact ⟨rfl, by simp, (Nat.mod_eq_of_lt s.ic.isLt).symm⟩
  | succ n ih =>
    intro s t lens h
    obtain ⟨g, u, lens', hfetch, hstep, hrun, hjump, hhlt, hrest, rfl⟩ := straightRun_succ h
    obtain ⟨hcount, hbounds, hic⟩ := ih u t lens' hrest
    refine ⟨by simp [hcount], ?_, ?_⟩
    · rw [List.forall_mem_cons, encode_length]
      exact ⟨format_length_bounds _, hbounds⟩
    · rw [hic, step_ic_of_advance hrun hfetch hstep hjump hhlt, List.sum_cons]
      omega

end Sys2Proof.Machine
end

section
/-! The fetch from what the decoder makes of the bytes at IC (spec/40_execution_cycle.md R67), for bytes that stand
there and for a table word placed there (log 19). -/

namespace Sys2Proof.Machine

variable {s : State} {i : Instr}

theorem State.readRun_of_prefix {a : Word} {n : Nat} {bs rest : List Byte} (h : s.readRun a n = bs ++ rest) :
    s.readRun a bs.length = bs := by
  induction bs generalizing a n with
  | nil => rfl
  | cons b bs ih =>
    cases n with
    | zero => cases h
    | succ n =>
      obtain ⟨hhead, htail⟩ := List.cons.inj h
      rw [List.length_cons, State.readRun, hhead, ih htail]

/-- A run of stores that does not go round the whole address space reads back as it was stored. -/
theorem State.readRun_writeRun (s : State) (a : Word) {bs : List Byte} (hlen : bs.length ≤ 0x10000) :
    (s.writeRun a bs).readRun a bs.length = bs := by
  refine List.ext_getElem (State.readRun_length ..) fun k hread hk => ?_
  rw [State.readRun_getElem _ _ _ _ hread, State.readByte_writeRun_inside _ _ _ hlen _ hk]

/-- Where the bytes from IC decode, the fetch gives that instruction, whatever follows it (R51, R67). -/
theorem fetch_of_decode {n : Nat} {rest : List Byte} (h : decode (s.readRun s.ic n) = .ok (i, rest)) :
    fetch s = .ok ⟨i, i.opcode, i.operands⟩ := by
  have hbytes : s.readRun s.ic (encode i).length = encode i := State.readRun_of_prefix (eq_encode_of_decode h)
  obtain ⟨hopcode, hoperands⟩ := List.cons.inj hbytes
  exact fetch_of_bytes hopcode hoperands

theorem State.readRun_three (s : State) (a : Word) :
    s.readRun a 3 = [s.readByte a, s.readByte (a + 1), s.readByte (a + 2)] := by
  rw [show a + 2 = a + 1 + 1 from (BitVec.add_assoc a 1 1).symm]
  rfl

/-! ### A placed table word -/

@[simp] theorem State.writeRun_ic (s : State) (a : Word) (bs : List Byte) : (s.writeRun a bs).ic = s.ic := by
  rw [State.writeRun_frame]

@[simp] theorem State.withFetchWord_ic (s : State) (nbits w : Nat) : (s.withFetchWord nbits w).ic = s.ic :=
  State.writeRun_ic ..

@[simp] theorem State.withFetchWord_halted (s : State) (nbits w : Nat) :
    (s.withFetchWord nbits w).halted = false := rfl

theorem State.readRun_withFetchWord (s : State) (nbits w : Nat) :
    (s.withFetchWord nbits w).readRun s.ic 3 = tableWordBytes nbits w := by
  rw [← State.readRun_writeRun s s.ic (bs := tableWordBytes nbits w) (by simp [tableWordBytes])]
  exact State.readRun_congr (fun _ => rfl) s.ic 3

theorem State.withFetchWord_cellsKept (s : State) (nbits w : Nat) :
    CellsKeptBut [s.ic, s.ic + 1, s.ic + 2] s (s.withFetchWord nbits w) := by
  intro a ha
  simp only [List.mem_cons, List.not_mem_nil, or_false, not_or] at ha
  obtain ⟨h0, h1, h2⟩ := ha
  refine State.readByte_writeRun_outside s s.ic a _ fun k hk => ?_
  match k, hk with
  | 0, _ => simpa using h0
  | 1, _ => exact h1
  | 2, _ => exact h2

theorem decode_of_decodeTableWord {nbits w : Nat} (h : decodeTableWord nbits w = some i) :
    ∃ rest, decode (tableWordBytes nbits w) = .ok (i, rest) := by
  unfold decodeTableWord at h
  split at h
  · cases h
    exact ⟨_, ‹_›⟩
  · cases h

/-- Settles O48: the placed bytes are those at IC, so they decode there to what the word decodes to. -/
theorem placedTableWordIsFetched : Obligations.PlacedTableWordIsFetched := by
  intro s nbits w i h
  obtain ⟨rest, hdecode⟩ := decode_of_decodeTableWord h
  rw [← State.readRun_withFetchWord s] at hdecode
  exact ⟨fetch_of_decode (by rwa [State.withFetchWord_ic]), State.withFetchWord_halted .., State.withFetchWord_ic ..,
    s.withFetchWord_cellsKept nbits w⟩

/-! ### The step on decodable bytes -/

/-- Phases 6 and 7 change the counters, the latch and memory alone (R70, R71). -/
theorem State.complete_frame (s : State) (opcode : Byte) (operands : List Byte) :
    s.complete opcode operands =
      { s with
        tick := (s.complete opcode operands).tick, tock := (s.complete opcode operands).tock
        li := (s.complete opcode operands).li, mem := (s.complete opcode operands).mem } := rfl

/-- Settles O29: the fetch gives the decoded instruction, `exec` of it never stops, and the rest is phases 6 and 7. -/
theorem stepRunsTheDecodedInstruction : Obligations.StepRunsTheDecodedInstruction := by
  intro s i rest hrun hdecode _
  rw [← State.readRun_three] at hdecode
  have hexec := exec_eq i s
  refine ⟨_, _, hexec, step_of_fetch_ok hrun (fetch_of_decode hdecode) hexec, ?_, ?_, rfl, State.complete_frame .., ?_⟩
  · rw [State.complete_tick, nextTick_toNat]
  · rw [State.complete_tock, nextTock_toNat]
  · exact State.readByte_countStep _

end Sys2Proof.Machine
end

section
/-! The halted core (spec/40_execution_cycle.md R66, spec/60_exceptions.md R170): idle over any number of steps, and
reached by the host through memory alone until init. -/

namespace Sys2Proof.Machine

variable {s : State}

theorem runSteps_of_halted (hhalted : s.halted = true) (n : Nat) : runSteps n s = .next s := by
  induction n with
  | zero => rfl
  | succ n ih => rw [runSteps_succ_of_next (step_of_halted hhalted), ih]

theorem stepPort_of_halted (hhalted : s.halted = true) : stepPort s = (.idle, s) := by simp [stepPort, hhalted]

/-- Every move of the host but init is a step, idle here, or a port that stores bytes (R167). -/
theorem hostAfter_frame_of_halted (hhalted : s.halted = true) {m : HostMove} (hinit : m ≠ .init) :
    hostAfter s m = { s with mem := (hostAfter s m).mem } := by
  cases m with
  | init => exact absurd rfl hinit
  | step =>
    have hidle : hostAfter s .step = s := by simp [hostAfter, hostMove, step_of_halted hhalted]
    rw [hidle]
  | load bytes => exact State.writeRun_frame s _ bytes
  | writeDigitalInput v => rfl
  | setUpdateFlag v => rfl
  | setPixel x y br cm =>
    simp only [hostAfter, hostMove, setPixel]
    cases pixelAddress x y <;> rfl
  | resetFrame => exact State.writeRun_frame s _ _

/-- Settles O30. -/
theorem haltedCoreNeverChanges : Obligations.HaltedCoreNeverChanges := fun n _ hhalted =>
  ⟨runSteps_of_halted hhalted n, stepPort_of_halted hhalted, fun _ => hostAfter_frame_of_halted hhalted, rfl⟩

end Sys2Proof.Machine
end

section
/-! The address-register instructions (spec/41_address_register.md R80 to R83). Each runs straight on and stores nothing,
so what is left to say of it is the value it computes. -/

namespace Sys2Proof.Machine

variable {i : Instr} {s : State}

/-- An instruction that neither halts, jumps nor stores: its effect, IC past its bytes (R69), and every cell as before. -/
theorem exec_of_straight (hhlt : i ≠ .hlt) (hjump : i.jumpsIn s = false) (hstores : i.storesIn s = []) :
    ∃ ic, exec i s = .next ((effect i s).setIC ic) ∧ ic.toNat = (s.ic.toNat + (encode i).length) % 65536 ∧
      CellsKept s ((effect i s).setIC ic) :=
  ⟨nextIC i s, exec_eq i s, nextIC_toNat_of_advance hhlt hjump, fun _ => effect_readByte (by simp [hstores])⟩

theorem effect_mar_ar_toNat (op1 op2 : Byte) (s : State) :
    (effect (.mar op1 op2) s).ar.toNat = op1.toNat + 256 * op2.toNat := imm16_toNat op1 op2

theorem effect_rar_ar_toNat (s : State) : (effect .rar s).ar.toNat = 256 * s.r1.toNat + s.r2.toNat :=
  wordOf_toNat s.r1 s.r2

/-- The addend is a byte without sign, and the carry out of bit 15 is lost (R82). -/
theorem effect_aar_ar_toNat (s : State) : (effect .aar s).ar.toNat = (s.ar.toNat + s.r0.toNat) % 65536 := by
  have hsum : (effect .aar s).ar = s.ar + zext16 s.r0 := rfl
  rw [hsum, BitVec.toNat_add, zext16_toNat]

theorem effect_taw_r1_toNat (s : State) : (effect .taw s).r1.toNat = s.ar.toNat / 256 := hi8_toNat s.ar

theorem effect_taw_r2_toNat (s : State) : (effect .taw s).r2.toNat = s.ar.toNat % 256 := lo8_toNat s.ar

/-- Settles O1 (R80): the immediate takes its low byte first (R52). -/
theorem marLoadsImmediateIntoAR : Obligations.MarLoadsImmediateIntoAR := by
  intro s op1 op2
  obtain ⟨ic, hexec, hic, hcells⟩ := exec_of_straight (i := .mar op1 op2) (s := s) nofun rfl rfl
  exact ⟨rfl, _, hexec, effect_mar_ar_toNat op1 op2 s, hic, rfl, hcells⟩

/-- Settles O2 (R81): R1 is the high byte, the order U1 fixes. -/
theorem rarLoadsPairIntoAR : Obligations.RarLoadsPairIntoAR := by
  refine ⟨rfl, fun s => ?_⟩
  obtain ⟨ic, hexec, hic, hcells⟩ := exec_of_straight (i := .rar) (s := s) nofun rfl rfl
  exact ⟨_, hexec, effect_rar_ar_toNat s, hic, rfl, hcells⟩

/-- Settles O3 (R82). -/
theorem aarAddsR0ToAR : Obligations.AarAddsR0ToAR := by
  refine ⟨rfl, fun s => ?_⟩
  obtain ⟨ic, hexec, hic, hcells⟩ := exec_of_straight (i := .aar) (s := s) nofun rfl rfl
  exact ⟨_, hexec, effect_aar_ar_toNat s, hic, rfl, hcells⟩

/-- Settles O4 (R83), in the byte order of R81. -/
theorem tawCopiesARIntoPair : Obligations.TawCopiesARIntoPair := by
  refine ⟨rfl, fun s => ?_⟩
  obtain ⟨ic, hexec, hic, hcells⟩ := exec_of_straight (i := .taw) (s := s) nofun rfl rfl
  exact ⟨_, hexec, effect_taw_r1_toNat s, effect_taw_r2_toNat s, hic, rfl, hcells⟩

/-- Settles O5: splitting a word into bytes and joining two bytes undo each other, and neither instruction reads what
was put in between. -/
theorem rarAndTawAreInverses : Obligations.RarAndTawAreInverses := by
  intro s a
  constructor
  · exact ⟨_, _, exec_eq .taw s, exec_eq .rar _, wordOf_hi8_lo8 s.ar⟩
  · intro x y
    exact ⟨_, _, exec_eq .rar s, exec_eq .taw _, hi8_wordOf s.r1 s.r2, lo8_wordOf s.r1 s.r2⟩

end Sys2Proof.Machine
end

section
/-! The arithmetic instructions (spec/42_arithmetic.md R90 to R96). The saturating steps and the pair operations are first
said in numbers, one rule for each branch; A01 and IRW, and S01 and DRW, share their rules, with R0 or 1 as operand. -/

namespace Sys2Proof.Machine

variable {r1 r2 v : Byte}

theorem byte_ne_FF_iff : v ≠ 0xFF ↔ v.toNat < 255 := by bv_omega

theorem byte_ne_00_iff : v ≠ 0x00 ↔ 0 < v.toNat := by bv_omega

theorem byteOfNat_toNat {n : Nat} (h : n ≤ 255) : (BitVec.ofNat 8 n).toNat = n :=
  (BitVec.toNat_ofNat n 8).trans (Nat.mod_eq_of_lt (Nat.lt_succ_of_le h))

/-! ### The saturating steps -/

theorem satInc_toNat (v : Byte) : (satInc v).toNat = min 255 (v.toNat + 1) := by
  unfold satInc
  split
  case isTrue hfull => simp [hfull]
  case isFalse hroom =>
    have hlt := byte_ne_FF_iff.1 hroom
    rw [byteOfNat_toNat hlt, min_eq_right hlt]

theorem satDec_toNat (v : Byte) : (satDec v).toNat = v.toNat - 1 := byteOfNat_toNat (by omega)

/-! ### The addition with carry -/

theorem addPair_of_no_carry (h : r1.toNat + v.toNat ≤ 255) :
    (addPair r1 r2 v).1.toNat = r1.toNat + v.toNat ∧ (addPair r1 r2 v).2 = r2 := by
  simp only [addPair, if_pos h]
  exact ⟨byteOfNat_toNat h, trivial⟩

theorem addPair_of_carry (h : ¬ r1.toNat + v.toNat ≤ 255) (hroom : r2 ≠ 0xFF) :
    (addPair r1 r2 v).1.toNat = r1.toNat + v.toNat - 256 ∧ (addPair r1 r2 v).2.toNat = r2.toNat + 1 := by
  simp only [addPair, if_neg h, if_pos hroom]
  exact ⟨byteOfNat_toNat (by omega), byteOfNat_toNat (byte_ne_FF_iff.1 hroom)⟩

theorem addPair_of_full (h : ¬ r1.toNat + v.toNat ≤ 255) (hfull : ¬ r2 ≠ 0xFF) : addPair r1 r2 v = (0xFF, 0xFF) := by
  simp only [addPair, if_neg h, if_neg hfull]

/-- The three branches of R92. -/
theorem addPair_branches (r1 r2 v : Byte) :
    if r1.toNat + v.toNat ≤ 255 then (addPair r1 r2 v).1.toNat = r1.toNat + v.toNat ∧ (addPair r1 r2 v).2 = r2
    else if r2 ≠ 0xFF then
      (addPair r1 r2 v).1.toNat = r1.toNat + v.toNat - 256 ∧ (addPair r1 r2 v).2.toNat = r2.toNat + 1
    else (addPair r1 r2 v).1 = 0xFF ∧ (addPair r1 r2 v).2 = 0xFF := by
  split_ifs with hsum hroom
  · exact addPair_of_no_carry hsum
  · exact addPair_of_carry hsum hroom
  · exact Prod.mk.inj (addPair_of_full hsum hroom)

/-- The three branches of R94: adding 1 carries out of R1 exactly at 0xFF, and leaves 0x00 there. -/
theorem addPair_one_branches (r1 r2 : Byte) :
    if r1 ≠ 0xFF then (addPair r1 r2 0x01).1.toNat = r1.toNat + 1 ∧ (addPair r1 r2 0x01).2 = r2
    else if r2 ≠ 0xFF then (addPair r1 r2 0x01).1 = 0x00 ∧ (addPair r1 r2 0x01).2.toNat = r2.toNat + 1
    else (addPair r1 r2 0x01).1 = 0xFF ∧ (addPair r1 r2 0x01).2 = 0xFF := by
  split_ifs with hr1 hroom
  · exact addPair_of_no_carry (byte_ne_FF_iff.1 hr1)
  · obtain ⟨hlow, hhigh⟩ := addPair_of_carry (v := 0x01) (mt byte_ne_FF_iff.2 hr1) hroom
    obtain rfl := not_not.1 hr1
    exact ⟨BitVec.eq_of_toNat_eq hlow, hhigh⟩
  · exact Prod.mk.inj (addPair_of_full (mt byte_ne_FF_iff.2 hr1) hroom)

/-- On 256·R2 + R1 the carry makes the two byte additions one, and both bytes full is the largest word. -/
theorem addPair_word (r1 r2 v : Byte) :
    256 * (addPair r1 r2 v).2.toNat + (addPair r1 r2 v).1.toNat =
      min 65535 (256 * r2.toNat + r1.toNat + v.toNat) := by
  have hr2 := r2.isLt
  by_cases hsum : r1.toNat + v.toNat ≤ 255
  · obtain ⟨hlow, hhigh⟩ := addPair_of_no_carry (r2 := r2) hsum
    rw [hlow, hhigh]
    omega
  · by_cases hroom : r2 ≠ 0xFF
    · obtain ⟨hlow, hhigh⟩ := addPair_of_carry hsum hroom
      have hlt := byte_ne_FF_iff.1 hroom
      rw [hlow, hhigh]
      omega
    · have hfull : ¬ r2.toNat < 255 := mt byte_ne_FF_iff.2 hroom
      rw [addPair_of_full hsum hroom]
      simp only [BitVec.reduceToNat]
      omega

/-! ### The subtraction with borrow -/

theorem subPair_of_no_borrow (h : v.toNat ≤ r1.toNat) :
    (subPair r1 r2 v).1.toNat = r1.toNat - v.toNat ∧ (subPair r1 r2 v).2 = r2 := by
  have hdiff : (0 : Int) ≤ (r1.toNat : Int) - v.toNat := by omega
  have habs : ((r1.toNat : Int) - v.toNat).natAbs = r1.toNat - v.toNat := by omega
  simp only [subPair, if_pos hdiff, habs]
  exact ⟨byteOfNat_toNat (by omega), trivial⟩

/-- R1 becomes the magnitude of the difference (D7, log 11), not the difference modulo 256. -/
theorem subPair_of_borrow (h : ¬ v.toNat ≤ r1.toNat) (hroom : r2 ≠ 0x00) :
    (subPair r1 r2 v).1.toNat = v.toNat - r1.toNat ∧ (subPair r1 r2 v).2.toNat = r2.toNat - 1 := by
  have hdiff : ¬ (0 : Int) ≤ (r1.toNat : Int) - v.toNat := by omega
  have habs : ((r1.toNat : Int) - v.toNat).natAbs = v.toNat - r1.toNat := by omega
  simp only [subPair, if_neg hdiff, if_pos hroom, habs]
  exact ⟨byteOfNat_toNat (by omega), byteOfNat_toNat (by omega)⟩

theorem subPair_of_empty (h : ¬ v.toNat ≤ r1.toNat) (hempty : ¬ r2 ≠ 0x00) : subPair r1 r2 v = (0x00, 0x00) := by
  have hdiff : ¬ (0 : Int) ≤ (r1.toNat : Int) - v.toNat := by omega
  simp only [subPair, if_neg hdiff, if_neg hempty]

/-- The three branches of R93. -/
theorem subPair_branches (r1 r2 v : Byte) :
    if v.toNat ≤ r1.toNat then (subPair r1 r2 v).1.toNat = r1.toNat - v.toNat ∧ (subPair r1 r2 v).2 = r2
    else if r2 ≠ 0x00 then
      (subPair r1 r2 v).1.toNat = v.toNat - r1.toNat ∧ (subPair r1 r2 v).2.toNat = r2.toNat - 1
    else (subPair r1 r2 v).1 = 0x00 ∧ (subPair r1 r2 v).2 = 0x00 := by
  split_ifs with hle hroom
  · exact subPair_of_no_borrow hle
  · exact subPair_of_borrow hle hroom
  · exact Prod.mk.inj (subPair_of_empty hle hroom)

/-- The three branches of R95: subtracting 1 borrows exactly at 0x00, where the magnitude is 1. -/
theorem subPair_one_branches (r1 r2 : Byte) :
    if r1 ≠ 0x00 then (subPair r1 r2 0x01).1.toNat = r1.toNat - 1 ∧ (subPair r1 r2 0x01).2 = r2
    else if r2 ≠ 0x00 then (subPair r1 r2 0x01).1 = 0x01 ∧ (subPair r1 r2 0x01).2.toNat = r2.toNat - 1
    else (subPair r1 r2 0x01).1 = 0x00 ∧ (subPair r1 r2 0x01).2 = 0x00 := by
  split_ifs with hr1 hroom
  · exact subPair_of_no_borrow (byte_ne_00_iff.1 hr1)
  · obtain ⟨hlow, hhigh⟩ := subPair_of_borrow (v := 0x01) (mt byte_ne_00_iff.2 hr1) hroom
    obtain rfl := not_not.1 hr1
    exact ⟨BitVec.eq_of_toNat_eq hlow, hhigh⟩
  · exact Prod.mk.inj (subPair_of_empty (mt byte_ne_00_iff.2 hr1) hroom)

/-- On a borrow by `d` the low byte should be 256 - d and is d, so only d = 128 gives the word difference. -/
theorem subPair_word_ne_iff (r1 r2 v : Byte) :
    256 * (subPair r1 r2 v).2.toNat + (subPair r1 r2 v).1.toNat ≠ 256 * r2.toNat + r1.toNat - v.toNat ↔
      r2 ≠ 0x00 ∧ r1.toNat < v.toNat ∧ v.toNat - r1.toNat ≠ 128 := by
  have hv := v.isLt
  rw [byte_ne_00_iff]
  by_cases hle : v.toNat ≤ r1.toNat
  · obtain ⟨hlow, hhigh⟩ := subPair_of_no_borrow (r2 := r2) hle
    rw [hlow, hhigh]
    omega
  · by_cases hroom : r2 ≠ 0x00
    · obtain ⟨hlow, hhigh⟩ := subPair_of_borrow hle hroom
      have hpos := byte_ne_00_iff.1 hroom
      rw [hlow, hhigh]
      omega
    · have hempty : ¬ 0 < r2.toNat := mt byte_ne_00_iff.2 hroom
      rw [subPair_of_empty hle hroom]
      simp only [BitVec.reduceToNat]
      omega

/-- A borrow by 1 happens at 0x00 alone, and its magnitude is never 128. -/
theorem subPair_one_word_ne_iff (r1 r2 : Byte) :
    256 * (subPair r1 r2 0x01).2.toNat + (subPair r1 r2 0x01).1.toNat ≠ 256 * r2.toNat + r1.toNat - 1 ↔
      r2 ≠ 0x00 ∧ r1 = 0x00 := by
  have hborrow : r1.toNat < 1 ∧ 1 - r1.toNat ≠ 128 ↔ r1 = 0x00 := by bv_omega
  exact (subPair_word_ne_iff r1 r2 0x01).trans (and_congr_right' hborrow)

/-! ### The instructions -/

/-- Settles O8 (R92, R94). -/
theorem a01AndIrwAreSaturatingWordAdditions : Obligations.A01AndIrwAreSaturatingWordAdditions := fun s =>
  ⟨⟨_, exec_eq .a01 s, addPair_word s.r1 s.r2 s.r0⟩, _, exec_eq .irw s, addPair_word s.r1 s.r2 0x01⟩

/-- Settles O10 (R93, R95, D7). -/
theorem s01AndDrwDifferFromWordSubtraction : Obligations.S01AndDrwDifferFromWordSubtraction := fun s =>
  ⟨⟨_, exec_eq .s01 s, subPair_word_ne_iff s.r1 s.r2 s.r0⟩, _, exec_eq .drw s, subPair_one_word_ne_iff s.r1 s.r2⟩

/-- Settles O6 (R90, R91). -/
theorem ir0AndDr0Saturate : Obligations.Ir0AndDr0Saturate := by
  refine ⟨rfl, rfl, fun s => ⟨?ir0, ?dr0⟩⟩
  case ir0 =>
    obtain ⟨ic, hexec, hic, hcells⟩ := exec_of_straight (i := .ir0) (s := s) nofun rfl rfl
    exact ⟨_, hexec, satInc_toNat s.r0, hic, rfl, hcells⟩
  case dr0 =>
    obtain ⟨ic, hexec, hic, hcells⟩ := exec_of_straight (i := .dr0) (s := s) nofun rfl rfl
    exact ⟨_, hexec, satDec_toNat s.r0, hic, rfl, hcells⟩

/-- Settles O7 (R92, R94). -/
theorem a01AndIrwCarryIntoR2 : Obligations.A01AndIrwCarryIntoR2 := by
  refine ⟨rfl, rfl, fun s => ⟨?a01, ?irw⟩⟩
  case a01 =>
    obtain ⟨ic, hexec, hic, hcells⟩ := exec_of_straight (i := .a01) (s := s) nofun rfl rfl
    exact ⟨_, hexec, addPair_branches s.r1 s.r2 s.r0, hic, rfl, hcells⟩
  case irw =>
    obtain ⟨ic, hexec, hic, hcells⟩ := exec_of_straight (i := .irw) (s := s) nofun rfl rfl
    exact ⟨_, hexec, addPair_one_branches s.r1 s.r2, hic, rfl, hcells⟩

/-- Settles O9 (R93, R95): the magnitude on a borrow is decision D7 (log 11). -/
theorem s01AndDrwBorrowFromR2 : Obligations.S01AndDrwBorrowFromR2 := by
  refine ⟨rfl, rfl, fun s => ⟨?s01, ?drw⟩⟩
  case s01 =>
    obtain ⟨ic, hexec, hic, hcells⟩ := exec_of_straight (i := .s01) (s := s) nofun rfl rfl
    exact ⟨_, hexec, subPair_branches s.r1 s.r2 s.r0, hic, rfl, hcells⟩
  case drw =>
    obtain ⟨ic, hexec, hic, hcells⟩ := exec_of_straight (i := .drw) (s := s) nofun rfl rfl
    exact ⟨_, hexec, subPair_one_branches s.r1 s.r2, hic, rfl, hcells⟩

end Sys2Proof.Machine
end

section
/-! The logic and shift instructions (spec/43_logic_shift.md R100 to R103). Each runs straight on and stores nothing, so
what is left to say of it is the byte it leaves in R0: bit by bit for the logic, as a number for the shifts. -/

namespace Sys2Proof.Machine

theorem effect_or0_r0_getLsbD (op1 : Byte) (s : State) (i : Nat) :
    (effect (.or0 op1) s).r0.getLsbD i = (s.r0.getLsbD i || op1.getLsbD i) := BitVec.getLsbD_or

theorem effect_an0_r0_getLsbD (op1 : Byte) (s : State) (i : Nat) :
    (effect (.an0 op1) s).r0.getLsbD i = (s.r0.getLsbD i && op1.getLsbD i) := BitVec.getLsbD_and

/-- The remainder is bit 7 going out of the byte (R102). -/
theorem effect_pl0_r0_toNat (s : State) : (effect .pl0 s).r0.toNat = 2 * s.r0.toNat % 256 := by
  have hshift : (effect .pl0 s).r0 = s.r0 <<< 1 := rfl
  rw [hshift, BitVec.toNat_shiftLeft, Nat.shiftLeft_eq, pow_one, mul_comm]

/-- The quotient drops bit 0, and bit 7 is filled with zero whatever it was (R103). -/
theorem effect_pr0_r0_toNat (s : State) : (effect .pr0 s).r0.toNat = s.r0.toNat / 2 := by
  have hshift : (effect .pr0 s).r0 = s.r0 >>> 1 := rfl
  rw [hshift, BitVec.toNat_ushiftRight, Nat.shiftRight_one]

/-- Settles O11 (R100, R101). -/
theorem or0AndAn0AreBitwise : Obligations.Or0AndAn0AreBitwise := by
  refine fun s op1 => ⟨rfl, rfl, ?or0, ?an0⟩
  case or0 =>
    obtain ⟨ic, hexec, hic, hcells⟩ := exec_of_straight (i := .or0 op1) (s := s) nofun rfl rfl
    exact ⟨_, hexec, fun i _ => effect_or0_r0_getLsbD op1 s i, hic, rfl, hcells⟩
  case an0 =>
    obtain ⟨ic, hexec, hic, hcells⟩ := exec_of_straight (i := .an0 op1) (s := s) nofun rfl rfl
    exact ⟨_, hexec, fun i _ => effect_an0_r0_getLsbD op1 s i, hic, rfl, hcells⟩

/-- Settles O12 (R102, R103). -/
theorem pl0AndPr0ShiftByOne : Obligations.Pl0AndPr0ShiftByOne := by
  refine ⟨rfl, rfl, fun s => ⟨?pl0, ?pr0⟩⟩
  case pl0 =>
    obtain ⟨ic, hexec, hic, hcells⟩ := exec_of_straight (i := .pl0) (s := s) nofun rfl rfl
    exact ⟨_, hexec, effect_pl0_r0_toNat s, hic, rfl, hcells⟩
  case pr0 =>
    obtain ⟨ic, hexec, hic, hcells⟩ := exec_of_straight (i := .pr0) (s := s) nofun rfl rfl
    exact ⟨_, hexec, effect_pr0_r0_toNat s, hic, rfl, hcells⟩

end Sys2Proof.Machine
end

section
/-! The register moves (spec/44_moves.md R110 to R118). Each runs straight on and stores nothing, so the registers it
writes are the whole of its effect: an equation for each move, and one rule for the state it leaves. -/

namespace Sys2Proof.Machine

theorem effect_mr0 (op1 : Byte) (s : State) : effect (.mr0 op1) s = { s with r0 := op1 } := rfl

theorem effect_mrw (op1 op2 : Byte) (s : State) : effect (.mrw op1 op2) s = { s with r1 := op1, r2 := op2 } := rfl

theorem effect_x12 (s : State) : effect .x12 s = { s with r1 := s.r2, r2 := s.r1 } := rfl

theorem effect_x01 (s : State) : effect .x01 s = { s with r0 := s.r1, r1 := s.r0 } := rfl

theorem effect_x03 (s : State) : effect .x03 s = { s with r0 := s.r3, r3 := s.r0 } := rfl

theorem effect_c01 (s : State) : effect .c01 s = { s with r1 := s.r0 } := rfl

theorem effect_c02 (s : State) : effect .c02 s = { s with r2 := s.r0 } := rfl

theorem effect_c03 (s : State) : effect .c03 s = { s with r3 := s.r0 } := rfl

theorem effect_c30 (s : State) : effect .c30 s = { s with r0 := s.r3 } := rfl

/-- A move's next state is its effect `u` but for IC, which goes past its bytes (R69). -/
theorem exec_of_move {i : Instr} {s u : State} (heffect : effect i s = u) (hhlt : i ≠ .hlt)
    (hjump : i.jumpsIn s = false) (hstores : i.storesIn s = []) :
    ∃ t, exec i s = .next t ∧ t.ic.toNat = (s.ic.toNat + (encode i).length) % 65536 ∧
      t = { u with ic := t.ic } ∧ CellsKept s t := by
  subst heffect
  obtain ⟨ic, hexec, hic, hcells⟩ := exec_of_straight hhlt hjump hstores
  exact ⟨_, hexec, hic, rfl, hcells⟩

/-- Settles O13 (R110, R111). -/
theorem mr0AndMrwLoadImmediates : Obligations.Mr0AndMrwLoadImmediates := by
  refine fun s op1 op2 => ⟨rfl, rfl, ?mr0, ?mrw⟩
  case mr0 => exact exec_of_move (effect_mr0 op1 s) nofun rfl rfl
  case mrw => exact exec_of_move (effect_mrw op1 op2 s) nofun rfl rfl

/-- Settles O14 (R112, R113, R114). -/
theorem swapsExchangeTwoRegisters : Obligations.SwapsExchangeTwoRegisters := by
  refine ⟨rfl, rfl, rfl, fun s => ⟨?x12, ?x01, ?x03⟩⟩
  case x12 => exact exec_of_move (effect_x12 s) nofun rfl rfl
  case x01 => exact exec_of_move (effect_x01 s) nofun rfl rfl
  case x03 => exact exec_of_move (effect_x03 s) nofun rfl rfl

/-- Settles O15 (R115, R116, R117, R118). -/
theorem copiesWriteTheDestinationOnly : Obligations.CopiesWriteTheDestinationOnly := by
  refine ⟨rfl, rfl, rfl, rfl, fun s => ⟨?c01, ?c02, ?c03, ?c30⟩⟩
  case c01 => exact exec_of_move (effect_c01 s) nofun rfl rfl
  case c02 => exact exec_of_move (effect_c02 s) nofun rfl rfl
  case c03 => exact exec_of_move (effect_c03 s) nofun rfl rfl
  case c30 => exact exec_of_move (effect_c30 s) nofun rfl rfl

end Sys2Proof.Machine
end

section
/-! The loads and stores (spec/45_load_store.md R120 to R125). None of them halts or jumps, so what is left to say is
what a store leaves in the cells it writes, those of its `storesIn`, and which cells a load reads. -/

namespace Sys2Proof.Machine

variable {i : Instr} {s : State}

/-! ### What stands in the cells after a store -/

theorem storeTwo_readByte_second (b1 b2 : Byte) (s : State) :
    (storeTwo b1 b2 s).readByte (effAddrNext s) = b2 := State.readByte_writeByte_self _ _ b2

/-- The second store goes to another cell even where AR+1 wraps to 0, so it does not overwrite the first (R35). -/
theorem storeTwo_readByte_first (b1 b2 : Byte) (s : State) : (storeTwo b1 b2 s).readByte (effAddr s) = b1 := by
  have hsecond : (storeTwo b1 b2 s).readByte (effAddr s) = (s.writeByte (effAddr s) b1).readByte (effAddr s) :=
    State.readByte_writeByte_other _ (effAddr_ne_next s) b2
  rw [hsecond, State.readByte_writeByte_self]

theorem sicFirst_toNat (s : State) (w : Word) :
    (sicFirst s w).toNat = if s.cfg.sicLowFirst then w.toNat % 256 else w.toNat / 256 := by
  unfold sicFirst
  split
  · exact lo8_toNat w
  · exact hi8_toNat w

theorem sicSecond_toNat (s : State) (w : Word) :
    (sicSecond s w).toNat = if s.cfg.sicLowFirst then w.toNat / 256 else w.toNat % 256 := by
  unfold sicSecond
  split
  · exact hi8_toNat w
  · exact lo8_toNat w

theorem effect_sic_readByte_toNat (s : State) :
    ((effect .sic s).readByte (effAddr s)).toNat =
        (if s.cfg.sicLowFirst then s.ic.toNat % 256 else s.ic.toNat / 256) ∧
      ((effect .sic s).readByte (effAddrNext s)).toNat =
        (if s.cfg.sicLowFirst then s.ic.toNat / 256 else s.ic.toNat % 256) := by
  have hfirst : (effect .sic s).readByte (effAddr s) = sicFirst s s.ic := storeTwo_readByte_first _ _ s
  have hsecond : (effect .sic s).readByte (effAddrNext s) = sicSecond s s.ic := storeTwo_readByte_second _ _ s
  rw [hfirst, hsecond]
  exact ⟨sicFirst_toNat s s.ic, sicSecond_toNat s s.ic⟩

theorem effect_srw_readByte (s : State) :
    (effect .srw s).readByte (effAddr s) = s.r1 ∧ (effect .srw s).readByte (effAddrNext s) = s.r2 :=
  ⟨storeTwo_readByte_first s.r1 s.r2 s, storeTwo_readByte_second s.r1 s.r2 s⟩

/-! ### The loads -/

theorem effect_lr0 (s : State) : effect .lr0 s = { s with r0 := s.readByte (effAddr s) } := rfl

theorem effect_lrw (s : State) :
    effect .lrw s = { s with r1 := s.readByte (effAddr s), r2 := s.readByte (effAddrNext s) } := rfl

/-! ### The instructions -/

/-- An instruction that neither halts nor jumps: its effect, IC past its bytes (R69), and every cell it does not store
to as before. -/
theorem exec_of_advance (hhlt : i ≠ .hlt) (hjump : i.jumpsIn s = false) :
    ∃ ic, exec i s = .next ((effect i s).setIC ic) ∧ ic.toNat = (s.ic.toNat + (encode i).length) % 65536 ∧
      CellsKeptBut (i.storesIn s) s ((effect i s).setIC ic) :=
  ⟨nextIC i s, exec_eq i s, nextIC_toNat_of_advance hhlt hjump, fun _ => effect_readByte⟩

/-- Settles O16 (R120): the IC stored is the one phase 5 has not yet moved (D3, log 8), in either byte order (D2,
log 2). -/
theorem sicStoresItsOwnAddress : Obligations.SicStoresItsOwnAddress := by
  refine ⟨rfl, fun s => ?_⟩
  obtain ⟨ic, hexec, hic, hcells⟩ := exec_of_advance (i := .sic) (s := s) nofun rfl
  obtain ⟨hfirst, hsecond⟩ := effect_sic_readByte_toNat s
  refine ⟨_, hexec, rfl, effAddrNext_toNat s, ?_, hic, rfl, hcells⟩
  rw [State.readByte_setIC, State.readByte_setIC, hfirst, hsecond]
  split <;> exact ⟨rfl, rfl⟩

/-- Settles O17 (R121). -/
theorem sr0StoresR0 : Obligations.Sr0StoresR0 := by
  refine ⟨rfl, fun s => ?_⟩
  obtain ⟨ic, hexec, hic, hcells⟩ := exec_of_advance (i := .sr0) (s := s) nofun rfl
  exact ⟨_, hexec, rfl, effect_sr0_readByte s, hic, rfl, hcells⟩

/-- Settles O18 (R122). -/
theorem srwStoresThePair : Obligations.SrwStoresThePair := by
  refine ⟨rfl, fun s => ?_⟩
  obtain ⟨ic, hexec, hic, hcells⟩ := exec_of_advance (i := .srw) (s := s) nofun rfl
  obtain ⟨hfirst, hsecond⟩ := effect_srw_readByte s
  exact ⟨_, hexec, rfl, effAddrNext_toNat s, hfirst, hsecond, hic, rfl, hcells⟩

/-- Settles O19 (R123, R124): as the register moves, with memory as the source. -/
theorem lr0AndLrwLoadFromAR : Obligations.Lr0AndLrwLoadFromAR := by
  refine ⟨rfl, rfl, fun s => ⟨rfl, effAddrNext_toNat s, ?lr0, ?lrw⟩⟩
  case lr0 => exact exec_of_move (effect_lr0 s) nofun rfl rfl
  case lrw => exact exec_of_move (effect_lrw s) nofun rfl rfl

/-- Settles O20 (R122, R124): SRW leaves AR alone, so the load reads the two cells just stored, and it overwrites
whatever was put into the pair in between. -/
theorem lrwUndoesSrwAtTheSameAR : Obligations.LrwUndoesSrwAtTheSameAR := by
  intro s x y
  obtain ⟨hfirst, hsecond⟩ := effect_srw_readByte s
  exact ⟨_, _, exec_eq .srw s, exec_eq .lrw _, hfirst, hsecond, rfl, fun _ => rfl⟩

end Sys2Proof.Machine
end

section
/-! The control instructions (spec/46_control.md R130 to R138). All but HLT leave everything to phase 5, so of each
jump only its condition is left to say; HLT sets the flag and nothing else. -/

namespace Sys2Proof.Machine

variable {i : Instr} {s : State}

/-! ### One instruction -/

theorem effect_nul (s : State) : effect .nul s = s := rfl

theorem effect_hlt (s : State) : effect .hlt s = { s with halted := true } := rfl

theorem jz0_jumpsIn_iff (s : State) : Instr.jz0.jumpsIn s = true ↔ s.r0.toNat = 0 := by
  simp [Instr.jumpsIn, BitVec.toNat_eq]

theorem jgw_jumpsIn_iff (s : State) : Instr.jgw.jumpsIn s = true ↔ s.r1.toNat > s.r2.toNat := decide_eq_true_iff

theorem jew_jumpsIn_iff (s : State) : Instr.jew.jumpsIn s = true ↔ s.r1.toNat = s.r2.toNat := by
  simp [Instr.jumpsIn, BitVec.toNat_eq]

theorem je0_jumpsIn_iff (op1 : Byte) (s : State) : (Instr.je0 op1).jumpsIn s = true ↔ s.r0.toNat = op1.toNat := by
  simp [Instr.jumpsIn, BitVec.toNat_eq]

theorem nextIC_toNat (hhlt : i ≠ .hlt) (s : State) :
    (nextIC i s).toNat =
      if i.jumpsIn s then s.ar.toNat else (s.ic.toNat + (encode i).length) % 65536 := by
  split
  case isTrue hjump => rw [nextIC_of_ne_hlt hhlt, if_pos hjump]
  case isFalse hjump => exact nextIC_toNat_of_advance hhlt (by simpa using hjump)

/-- A jump with condition `cond` moves IC, to AR or past its own bytes (R137), and does nothing else. -/
theorem exec_of_jump {cond : Prop} [Decidable cond] (heffect : effect i s = s) (hhlt : i ≠ .hlt)
    (hcond : i.jumpsIn s = true ↔ cond) :
    ∃ t, exec i s = .next t ∧
      t.ic.toNat = (if cond then s.ar.toNat else (s.ic.toNat + (encode i).length) % 65536) ∧
      t = { s with ic := t.ic } ∧ CellsKept s t := by
  have hexec := exec_eq i s
  rw [heffect] at hexec
  refine ⟨_, hexec, ?_, rfl, fun _ => rfl⟩
  rw [State.setIC_ic, nextIC_toNat hhlt]
  exact if_congr hcond rfl rfl

/-- Settles O21 (R130, R131): NUL is a move that writes no register. -/
theorem nulAdvancesAndJmpJumps : Obligations.NulAdvancesAndJmpJumps := by
  refine ⟨rfl, rfl, fun s => ⟨?nul, ?jmp⟩⟩
  case nul => exact exec_of_move (effect_nul s) nofun rfl rfl
  case jmp => exact ⟨_, exec_eq .jmp s, rfl, fun _ => rfl⟩

/-- Settles O22 (R132, R133, R134, R135). -/
theorem conditionalJumpsTestRegisters : Obligations.ConditionalJumpsTestRegisters := by
  refine fun s op1 => ⟨rfl, rfl, rfl, rfl, ?jz0, ?jgw, ?jew, ?je0⟩
  case jz0 => exact exec_of_jump rfl nofun (jz0_jumpsIn_iff s)
  case jgw => exact exec_of_jump rfl nofun (jgw_jumpsIn_iff s)
  case jew => exact exec_of_jump rfl nofun (jew_jumpsIn_iff s)
  case je0 => exact exec_of_jump rfl nofun (je0_jumpsIn_iff op1 s)

/-- Settles O23 (R136): phase 5 of HLT leaves IC on the opcode, the spec's decision D4 (log 9). -/
theorem hltSetsHaltedAndKeepsIC : Obligations.HltSetsHaltedAndKeepsIC := by
  refine ⟨rfl, fun s => ?_⟩
  have hexec := exec_eq .hlt s
  rw [effect_hlt, nextIC_hlt] at hexec
  exact ⟨_, hexec, rfl, fun _ => rfl⟩

/-! ### The whole step -/

/-- The step where the opcode of an instruction without operands stands at IC: its two phases, then phases 6 and 7. -/
theorem step_of_opcode (hrun : s.halted = false) (hbyte : s.readByte s.ic = i.opcode) (hoperands : i.operands = []) :
    step s = .next (((effect i s).setIC (nextIC i s)).complete i.opcode []) :=
  step_of_fetch_ok hrun (fetch_of_opcode hbyte hoperands) (exec_eq i s)

/-- Settles O24 (R136, R70, R71): HLT ends like every completed step (D5, log 10), so the laws of the step give the
mirrors and the other cells. -/
theorem hltStepIsACompletedStep : Obligations.HltStepIsACompletedStep := by
  intro s hrun hbyte hwf
  have hstep := step_of_opcode (i := .hlt) hrun hbyte rfl
  have htick := step_tick_mirrored (Params.cells_apart hwf).1 hrun hstep
  have htock := step_tock_mirrored hrun hstep
  obtain ⟨-, hcells⟩ := stepWritesOnlyStoresAndMirrors s _ _ hrun (fetch_of_opcode (i := .hlt) hbyte rfl) hstep
  exact ⟨_, hstep, rfl, rfl, nextTick_toNat s.tick, nextTock_toNat s.tock, rfl, ⟨htick, htock⟩, rfl, hcells⟩

/-! ### The JMP to itself -/

/-- What holds before every step of the loop of R131: a JMP at IC that targets itself, where no mirror overwrites it. -/
structure AtSelfJump (s : State) : Prop where
  running : s.halted = false
  opcode : s.readByte s.ic = 0x11
  target : s.ar = s.ic
  off_tick : s.ic ≠ s.cfg.tickAddr
  off_tock : s.ic ≠ s.cfg.tockAddr

/-- One turn of the loop is phases 6 and 7 alone. -/
theorem AtSelfJump.step_eq (h : AtSelfJump s) : step s = .next (s.complete 0x11 []) := by
  have hjump : (effect .jmp s).setIC (nextIC .jmp s) = s.setIC s.ar := rfl
  have hstep := step_of_opcode (i := .jmp) h.running h.opcode rfl
  rw [hjump, h.target] at hstep
  exact hstep

theorem AtSelfJump.complete (h : AtSelfJump s) (opcode : Byte) (operands : List Byte) :
    AtSelfJump (s.complete opcode operands) where
  running := h.running
  opcode := by
    rw [State.complete_ic, State.readByte_complete, State.readByte_countStep_other _ h.off_tick h.off_tock, h.opcode]
  target := h.target
  off_tick := h.off_tick
  off_tock := h.off_tock

/-- The loop goes on for any number of steps and changes what phases 6 and 7 write, nothing else. -/
theorem AtSelfJump.runSteps_frame (h : AtSelfJump s) (n : Nat) :
    ∃ t, runSteps n s = .next t ∧ t = { s with tick := t.tick, tock := t.tock, li := t.li, mem := t.mem } := by
  induction n generalizing s with
  | zero => exact ⟨s, rfl, rfl⟩
  | succ n ih =>
    obtain ⟨t, hrest, hframe⟩ := ih (h.complete 0x11 [])
    exact ⟨t, (runSteps_succ_of_next h.step_eq).trans hrest, hframe⟩

/-- Settles O41 (R131, R70): the frame of the loop, and the counters that every run without an idle step has. -/
theorem jmpToItselfNeverHalts : Obligations.JmpToItselfNeverHalts := by
  intro n s hrun hbyte htarget htick htock
  obtain ⟨t, hsteps, hframe⟩ := AtSelfJump.runSteps_frame ⟨hrun, hbyte, htarget, htick, htock⟩ n
  have hend : t.halted = false := (congrArg State.halted hframe).trans hrun
  refine ⟨t, hsteps, hend, ?_, ?_, ?_, ?_, ?_, ?_, countersAfterAnyRun n s t hsteps hend⟩
  all_goals rw [hframe]

end Sys2Proof.Machine
end

section
/-! Runs of bytes (spec/20_memory.md R31, R32), which the host's ports rest on: what each cell holds after a run that
stays below the top of memory, which bytes of a longer run are still there, and what a run read shows. -/

namespace Sys2Proof.Machine

variable {s : State}

theorem word_add_ofNat_sub {a b : Word} (h : a.toNat ≤ b.toNat) : a + BitVec.ofNat 16 (b.toNat - a.toNat) = b := by
  have hb := b.isLt
  apply BitVec.eq_of_toNat_eq
  rw [BitVec.toNat_add, BitVec.toNat_ofNat]
  omega

theorem wrapAddr_add_natCast (n i : Nat) : wrapAddr ((n : Int) + i) = BitVec.ofNat 16 n + BitVec.ofNat 16 i := by
  rw [wrapAddr, ← Nat.cast_add, BitVec.ofInt_natCast, BitVec.ofNat_add]

/-- After a run of stores that does not wrap, each cell of its range holds its byte and every other cell what it
held. -/
theorem State.readByte_writeRun (s : State) {a : Word} {bs : List Byte} (hfits : a.toNat + bs.length ≤ 0x10000)
    (b : Word) :
    (s.writeRun a bs).readByte b =
      if a.toNat ≤ b.toNat ∧ b.toNat < a.toNat + bs.length then bs.getD (b.toNat - a.toNat) 0x00
      else s.readByte b := by
  split
  case isTrue hrange =>
    obtain ⟨hlow, hhigh⟩ := hrange
    have hindex : b.toNat - a.toNat < bs.length := by omega
    have hinside := s.readByte_writeRun_inside a bs (by omega) _ hindex
    rw [word_add_ofNat_sub hlow] at hinside
    rw [hinside, List.getD_eq_getElem _ _ hindex]
  case isFalse hrange =>
    refine s.readByte_writeRun_outside a b bs fun i hi hb => hrange ?_
    rw [hb, BitVec.toNat_add, BitVec.toNat_ofNat]
    omega

/-- Filling a range with one byte. -/
theorem State.readByte_fill (s : State) {a : Word} {n : Nat} (v : Byte) (hfits : a.toNat + n ≤ 0x10000) (b : Word) :
    (s.writeRun a (List.replicate n v)).readByte b =
      if a.toNat ≤ b.toNat ∧ b.toNat < a.toNat + n then v else s.readByte b := by
  rw [State.readByte_writeRun s (by rwa [List.length_replicate]), List.length_replicate]
  split
  case isTrue hrange => exact List.getD_replicate _ (by omega)
  case isFalse => rfl

/-- Byte `i` of a run of any length stands in its cell unless the run comes back there later (D12, log 13). -/
theorem State.readByte_writeRun_last (s : State) (a : Word) (bs : List Byte) (i : Nat) (hi : i < bs.length)
    (hlast : bs.length ≤ i + 0x10000) : (s.writeRun a bs).readByte (a + BitVec.ofNat 16 i) = bs[i] := by
  have hsplit := s.writeRun_append a (bs.take i) (bs.drop i)
  rw [List.take_append_drop, List.length_take_of_le hi.le] at hsplit
  have hlength : (bs.drop i).length = bs.length - i := List.length_drop
  have hhead := (s.writeRun a (bs.take i)).readByte_writeRun_inside (a + BitVec.ofNat 16 i) (bs.drop i) (by omega) 0
    (by omega)
  simpa [hsplit] using hhead

theorem State.readRun_getElem? (s : State) (a : Word) {n i : Nat} (hi : i < n) :
    (s.readRun a n)[i]? = some (s.readByte (a + BitVec.ofNat 16 i)) := by
  have hlength : i < (s.readRun a n).length := by rwa [State.readRun_length]
  rw [List.getElem?_eq_getElem hlength, State.readRun_getElem]

end Sys2Proof.Machine
end

section
/-! The host's moves keep the state invariant (spec/60_exceptions.md R167, spec/10_state.md R22). A move that answers a
next state is init, a step, or a port that stores bytes; stores keep the canonical memory and touch nothing else. -/

namespace Sys2Proof.Machine

variable {s t : State}

theorem step_cfg (h : step s = .next t) : t.cfg = s.cfg := by
  rcases step_next_cases h with ⟨-, rfl⟩ | ⟨hrun, -⟩
  · rfl
  · obtain ⟨g, -, rfl⟩ := step_completed hrun h
    simp

/-- What every move of the host keeps: the invariant, and the parameters (R22). -/
def KeepsInv (s t : State) : Prop := s.inv = true → t.inv = true ∧ t.cfg = s.cfg

theorem KeepsInv.refl (s : State) : KeepsInv s s := fun hinv => ⟨hinv, rfl⟩

theorem KeepsInv.trans {s t u : State} (hst : KeepsInv s t) (htu : KeepsInv t u) : KeepsInv s u := fun hinv =>
  let ⟨htinv, htcfg⟩ := hst hinv
  let ⟨huinv, hucfg⟩ := htu htinv
  ⟨huinv, hucfg.trans htcfg⟩

theorem keepsInv_init (s : State) : KeepsInv s (init s) := fun hinv =>
  ⟨State.inv_resetWith_iff.2 (State.inv_iff.1 hinv).1, rfl⟩

theorem keepsInv_step (h : step s = .next t) : KeepsInv s t := fun hinv =>
  ⟨stepKeepsTheStateInvariant s t hinv h, step_cfg h⟩

theorem keepsInv_writeByte (s : State) (a : Word) (v : Byte) : KeepsInv s (s.writeByte a v) := fun hinv =>
  let ⟨hparams, hmem, hlatch⟩ := State.inv_iff.1 hinv
  ⟨State.inv_iff.2 ⟨hparams, State.wf_writeByte hmem a v, hlatch⟩, rfl⟩

theorem keepsInv_writeRun (s : State) (a : Word) (bs : List Byte) : KeepsInv s (s.writeRun a bs) := by
  induction bs generalizing s a with
  | nil => exact .refl s
  | cons b bs ih => exact (keepsInv_writeByte s a b).trans (ih _ _)

/-- The one way setPixel answers a next state: two stores, at the addresses of the pixel (R154). -/
theorem setPixel_next {x y : Int} {br cm : Bool} (h : setPixel x y br cm s = .next t) :
    ∃ ab ac, pixelAddress x y = .ok (ab, ac) ∧ t = (s.writeByte ab (planeByte br)).writeByte ac (planeByte cm) := by
  unfold setPixel at h
  split at h
  · cases h
  · cases h
    exact ⟨_, _, ‹_›, rfl⟩

theorem keepsInv_hostMove {m : HostMove} (h : hostMove m s = .next t) : KeepsInv s t := by
  cases m with
  | init => exact Host.Outcome.next.inj h ▸ keepsInv_init s
  | load bytes => exact Host.Outcome.next.inj h ▸ keepsInv_writeRun s _ bytes
  | step => exact keepsInv_step h
  | writeDigitalInput v => exact Host.Outcome.next.inj h ▸ keepsInv_writeByte s _ _
  | setUpdateFlag v => exact Host.Outcome.next.inj h ▸ keepsInv_writeByte s _ _
  | setPixel x y br cm =>
    obtain ⟨ab, ac, -, rfl⟩ := setPixel_next h
    exact (keepsInv_writeByte s ab _).trans (keepsInv_writeByte _ ac _)
  | resetFrame => exact Host.Outcome.next.inj h ▸ keepsInv_writeRun s _ _

/-- A move that fails changes nothing (R140, R144). -/
theorem keepsInv_hostAfter (s : State) (m : HostMove) : KeepsInv s (hostAfter s m) := by
  unfold hostAfter
  split
  case h_1 t hmove => exact keepsInv_hostMove hmove
  case h_2 | h_3 => exact .refl s

theorem keepsInv_hostRun (s : State) (ms : List HostMove) : KeepsInv s (hostRun s ms) := by
  induction ms generalizing s with
  | nil => exact .refl s
  | cons m ms ih => exact (keepsInv_hostAfter s m).trans (ih _)

/-- Settles O44, by induction on the moves. -/
theorem hostMovesKeepTheStateInvariant : Obligations.HostMovesKeepTheStateInvariant := keepsInv_hostRun

end Sys2Proof.Machine
end

section
/-! How a step can stop (spec/60_exceptions.md R140 to R143): a byte with a table entry is fetched, whatever follows
it, and once fetched it completes. So the halt flag and the table entry alone tell the outcomes of a step apart. -/

namespace Sys2Proof.Machine

variable {s : State}

/-- The operand bytes that the table asks for are those the decoder takes, so InvalidOperandIndex never happens
(R142). -/
theorem exists_fetch_of_lookupOpcode_some {d : Descriptor} (h : lookupOpcode (s.readByte s.ic) = some d) :
    ∃ g, fetch s = .ok g := by
  have hlength := (format_length_bounds d.format).1
  rcases decode_of_lookupOpcode_some h (s.readRun (s.ic + 1) (d.format.length - 1)) with ⟨hshort, -⟩ | ⟨-, p, hok⟩
  · rw [State.readRun_length] at hshort
    omega
  · exact ⟨⟨p.1, s.readByte s.ic, s.readRun (s.ic + 1) (d.format.length - 1)⟩, by simp only [fetch, h, hok]⟩

theorem exists_step_of_lookupOpcode_some {d : Descriptor} (hrun : s.halted = false)
    (h : lookupOpcode (s.readByte s.ic) = some d) : ∃ t, step s = .next t := by
  obtain ⟨g, hfetch⟩ := exists_fetch_of_lookupOpcode_some h
  exact ⟨_, step_of_fetch_ok hrun hfetch (exec_eq g.instr s)⟩

/-- The outcomes of a step: idle, the fault, or completed. -/
theorem step_cases (s : State) :
    (s.halted = true ∧ step s = .next s) ∨
      (s.halted = false ∧ lookupOpcode (s.readByte s.ic) = none ∧ step s = .fault (raiseInvalidOpcode s)) ∨
        (s.halted = false ∧ lookupOpcode (s.readByte s.ic) ≠ none ∧ ∃ t, step s = .next t) := by
  cases hhalted : s.halted with
  | true => exact .inl ⟨rfl, step_of_halted hhalted⟩
  | false =>
    cases hlookup : lookupOpcode (s.readByte s.ic) with
    | none => exact .inr (.inl ⟨rfl, rfl, step_of_fetch_error hhalted (fetch_of_lookupOpcode_none hlookup)⟩)
    | some d => exact .inr (.inr ⟨rfl, by simp, exists_step_of_lookupOpcode_some hhalted hlookup⟩)

/-- Settles O32, outcome by outcome. -/
theorem stepStopsOnlyOnInvalidOpcode : Obligations.StepStopsOnlyOnInvalidOpcode := by
  intro s
  rcases step_cases s with ⟨hhalted, hstep⟩ | ⟨hrun, hnone, hstep⟩ | ⟨hrun, hsome, t, hstep⟩
  · simp [hstep, hhalted]
  · simp [hstep, hrun, hnone, raiseInvalidOpcode, eq_comm]
  · simp [hstep, hsome]

/-- Settles O25 (R143). -/
theorem everyInstructionCompletes : Obligations.EveryInstructionCompletes := fun i s => ⟨_, exec_eq i s⟩

end Sys2Proof.Machine
end

section
/-! Pixels and their cells (spec/60_exceptions.md R152 to R155). Everything about a coordinate is said by the two
numbers its addresses are, and the frame read is said cell by cell. -/

namespace Sys2Proof.Machine

variable {s : State} {x y : Int} {ab ac : Word}

theorem coordinateOk_iff : coordinateOk x y = true ↔ 1 ≤ x ∧ x ≤ 64 ∧ 1 ≤ y ∧ y ≤ 64 := by
  simp [coordinateOk, and_assoc]

theorem pixelAddress_of_outside (h : ¬(1 ≤ x ∧ x ≤ 64 ∧ 1 ≤ y ∧ y ≤ 64)) :
    pixelAddress x y = .error (.invalidCoordinate x y) := by
  rw [pixelAddress, if_neg (mt coordinateOk_iff.1 h)]

theorem brightnessStart_toNat : brightnessStart.toNat = 0xE000 := rfl

theorem colorStart_toNat : colorStart.toNat = 0xF000 := rfl

/-- A cell's offset from the start of its plane is added without wrapping. -/
theorem toNat_add_wrapAddr {a : Word} {k : Int} (hlow : 0 ≤ k) (hhigh : a.toNat + k < 0x10000) :
    ((a + wrapAddr k).toNat : Int) = a.toNat + k := by
  have ha := a.isLt
  rw [wrapAddr, BitVec.toNat_add, BitVec.toNat_ofInt]
  omega

/-- The formula of R153, with its domain. -/
theorem pixelAddress_eq_ok_iff :
    pixelAddress x y = .ok (ab, ac) ↔ (1 ≤ x ∧ x ≤ 64 ∧ 1 ≤ y ∧ y ≤ 64) ∧
      (ab.toNat : Int) = 0xE000 + ((y - 1) * 64 + (x - 1)) ∧
      (ac.toNat : Int) = 0xF000 + ((y - 1) * 64 + (x - 1)) := by
  by_cases hrange : 1 ≤ x ∧ x ≤ 64 ∧ 1 ≤ y ∧ y ≤ 64
  · have hab : ((brightnessStart + wrapAddr ((y - 1) * 64 + (x - 1))).toNat : Int) =
        0xE000 + ((y - 1) * 64 + (x - 1)) :=
      toNat_add_wrapAddr (by omega) (by rw [brightnessStart_toNat]; omega)
    have hac : ((colorStart + wrapAddr ((y - 1) * 64 + (x - 1))).toNat : Int) =
        0xF000 + ((y - 1) * 64 + (x - 1)) :=
      toNat_add_wrapAddr (by omega) (by rw [colorStart_toNat]; omega)
    rw [pixelAddress, if_pos (coordinateOk_iff.2 hrange), ← hab, ← hac, Nat.cast_inj, Nat.cast_inj, BitVec.toNat_inj,
      BitVec.toNat_inj, and_iff_right hrange, Except.ok.injEq, Prod.mk.injEq]
    exact and_congr eq_comm eq_comm
  · simp [pixelAddress_of_outside hrange, hrange]

theorem exists_pixelAddress (h : 1 ≤ x ∧ x ≤ 64 ∧ 1 ≤ y ∧ y ≤ 64) :
    ∃ ab ac, pixelAddress x y = .ok (ab, ac) := by
  rw [pixelAddress, if_pos (coordinateOk_iff.2 h)]
  exact ⟨_, _, rfl⟩

/-- Settles O54: column and row are the remainder and the quotient of the offset by 64. -/
theorem pixelAddressIsABijection : Obligations.PixelAddressIsABijection := by
  refine ⟨fun x y hx hx' hy hy' => ?_, fun x y => pixelAddress_of_outside, ?_, fun a ha => ?_⟩
  · obtain ⟨ab, ac, hok⟩ := exists_pixelAddress ⟨hx, hx', hy, hy'⟩
    exact ⟨ab, ac, hok, (pixelAddress_eq_ok_iff.1 hok).2⟩
  · intro x y x' y' ab ac ab' ac' hok hok' hshared
    obtain ⟨hrange, hab, hac⟩ := pixelAddress_eq_ok_iff.1 hok
    obtain ⟨hrange', hab', hac'⟩ := pixelAddress_eq_ok_iff.1 hok'
    have hoffset : (y - 1) * 64 + (x - 1) = (y' - 1) * 64 + (x' - 1) := by
      rcases hshared with rfl | rfl <;> omega
    omega
  · have hlt := a.isLt
    obtain ⟨ab, ac, hok⟩ := exists_pixelAddress (x := a.toNat % 64 + 1) (y := a.toNat % 4096 / 64 + 1) (by omega)
    obtain ⟨-, hab, hac⟩ := pixelAddress_eq_ok_iff.1 hok
    refine ⟨ab, ac, hok, ?_⟩
    split
    · exact BitVec.eq_of_toNat_eq (by omega)
    · exact BitVec.eq_of_toNat_eq (by omega)

/-! ### The planes as the host writes and reads them -/

theorem planeByte_eq (b : Bool) : planeByte b = BitVec.ofNat 8 b.toNat := by cases b <;> rfl

theorem planeByte_toNat (b : Bool) : (planeByte b).toNat = b.toNat := by cases b <;> rfl

theorem getFrame_getElem? (s : State) {a : Word} {k : Nat} (h : a.toNat = 0xE000 + k) :
    (getFrame s)[k]? = some (s.readByte a) := by
  have ha := a.isLt
  have haddr : brightnessStart + BitVec.ofNat 16 k = a := by
    have hsum := word_add_ofNat_sub (a := brightnessStart) (b := a) (by rw [brightnessStart_toNat]; omega)
    rwa [brightnessStart_toNat, h, Nat.add_sub_cancel_left] at hsum
  rw [getFrame, State.readRun_getElem? s _ (by omega), haddr]

theorem setPixel_of_pixelAddress (br cm : Bool) (h : pixelAddress x y = .ok (ab, ac)) :
    setPixel x y br cm s = .next ((s.writeByte ab (planeByte br)).writeByte ac (planeByte cm)) := by
  simp only [setPixel, h]

theorem setPixel_of_outside (br cm : Bool) (h : ¬(1 ≤ x ∧ x ≤ 64 ∧ 1 ≤ y ∧ y ≤ 64)) :
    setPixel x y br cm s = .fault (.invalidCoordinate x y) := by
  simp only [setPixel, pixelAddress_of_outside h]

/-- The pixel's two cells are different ones, so both stores are there afterwards. -/
theorem readByte_setPixel {t : State} {br cm : Bool} (haddr : pixelAddress x y = .ok (ab, ac))
    (h : setPixel x y br cm s = .next t) :
    t.readByte ab = planeByte br ∧ t.readByte ac = planeByte cm ∧ CellsKeptBut [ab, ac] s t := by
  obtain ⟨-, hab, hac⟩ := pixelAddress_eq_ok_iff.1 haddr
  have hapart : ab ≠ ac := fun h => by rw [h] at hab; omega
  cases (setPixel_of_pixelAddress br cm haddr).symm.trans h
  refine ⟨?_, State.readByte_writeByte_self .., fun a ha => ?_⟩
  · rw [State.readByte_writeByte_other _ hapart, State.readByte_writeByte_self]
  · obtain ⟨hb, hc⟩ : a ≠ ab ∧ a ≠ ac := by simpa using ha
    rw [State.readByte_writeByte_other _ hc, State.readByte_writeByte_other _ hb]

/-- Settles O55: getFrame shows each cell at its distance from the first plane's start. -/
theorem setPixelThenGetFrameRoundTrips : Obligations.SetPixelThenGetFrameRoundTrips := by
  refine ⟨fun s x y br cm hx hx' hy hy' => ?_, fun s x y br cm hout => ?_⟩
  · obtain ⟨ab, ac, haddr⟩ := exists_pixelAddress ⟨hx, hx', hy, hy'⟩
    obtain ⟨-, hab, hac⟩ := pixelAddress_eq_ok_iff.1 haddr
    have hset := setPixel_of_pixelAddress (s := s) br cm haddr
    obtain ⟨hb, hc, hkept⟩ := readByte_setPixel haddr hset
    refine ⟨_, ab, ac, haddr, hset, ?_, ?_, rfl, hkept, ?_, ?_⟩
    · rw [hb, planeByte_toNat]
    · rw [hc, planeByte_toNat]
    · rw [getFrame_getElem? (a := ab) _ (by omega), hb, planeByte_eq]
    · rw [getFrame_getElem? (a := ac) _ (by omega), hc, planeByte_eq]
  · have hfault := setPixel_of_outside (s := s) br cm hout
    exact ⟨hfault, by simp only [hostAfter, hostMove, hfault]⟩

/-- Settles O58 (R158, R155). -/
theorem resetFrameZeroesBothPlanes : Obligations.ResetFrameZeroesBothPlanes := by
  refine fun s => ⟨fun a => ?_, s.writeRun_frame _ _, ?_⟩
  · have ha := a.isLt
    rw [resetFrame, State.readByte_fill s _ (by decide), brightnessStart_toNat]
    exact if_congr (by omega) rfl rfl
  · have hread := s.readRun_writeRun brightnessStart (bs := List.replicate 8192 0x00)
      (by rw [List.length_replicate]; decide)
    rwa [List.length_replicate] at hread

end Sys2Proof.Machine
end

section
/-! The read-out ports (spec/60_exceptions.md R164, R166): cells, and the instruction that ran. -/

namespace Sys2Proof.Machine

variable {s t : State}

theorem wrapAddr_eq_of_emod {a : Int} {w : Word} (h : a % 65536 = w.toNat) : wrapAddr a = w := by
  apply BitVec.eq_of_toNat_eq
  rw [wrapAddr, BitVec.toNat_ofInt]
  omega

theorem readRange_of_domain {first last : Int} (h : 0 ≤ first ∧ first ≤ last ∧ last ≤ 65535) :
    readRange first last s = .ok (s.readRun (wrapAddr first) (last - first + 1).toNat) := by
  rw [readRange, if_pos h]

theorem State.readRun_getElem?_memRead (s : State) {a : Int} {n i : Nat} (ha : 0 ≤ a) (hi : i < n) :
    (s.readRun (wrapAddr a) n)[i]? = some (s.memRead (a + i)) := by
  obtain ⟨k, rfl⟩ := Int.eq_ofNat_of_zero_le ha
  rw [State.readRun_getElem? s _ hi, State.memRead, wrapAddr_add_natCast, wrapAddr, BitVec.ofInt_natCast]

/-- Settles O59. -/
theorem readOutPortsReturnTheCells : Obligations.ReadOutPortsReturnTheCells := by
  refine ⟨fun s a => ⟨rfl, s.memRead_congr (by omega), fun w hw => ?_⟩, fun s a b ha hab hb => ?_,
    fun s a b hout => if_neg hout, fun s => ⟨s.readRun_length _ _, ?_⟩⟩
  · rw [readPort, State.memRead, wrapAddr_eq_of_emod hw]
  · refine ⟨_, readRange_of_domain ⟨ha, hab, hb⟩, ?_, fun i hi => ?_⟩
    · rw [State.readRun_length]
      omega
    · rw [State.readRun_length] at hi
      exact s.readRun_getElem?_memRead ha hi
  · have hcount : ((0xFFFF : Int) - 0xE000 + 1).toNat = 8192 := by decide
    have hfirst : wrapAddr 0xE000 = brightnessStart := by decide
    rw [readRange_of_domain (by decide), hcount, hfirst, getFrame]

/-- The operand bytes fetched are the instruction's own: as many as it takes, and the decoder read them off (R52). -/
theorem fetch_ok_operands {g : Fetched} (h : fetch s = .ok g) : g.operands = g.instr.operands := by
  obtain ⟨d, rest, -, -, -, hdecode⟩ := fetch_ok h
  have hlength := fetch_ok_length h
  have hbytes : g.operands = g.instr.operands ++ rest := (List.cons.inj (eq_encode_of_decode hdecode)).2
  have hrest : rest.length = 0 := by
    rw [hbytes, List.length_append, encode, List.length_cons] at hlength
    omega
  rw [hbytes, List.eq_nil_of_length_eq_zero hrest, List.append_nil]

/-- Settles O60: the latch of a completed step holds the bytes fetched, and the table row of the opcode is the
instruction's. -/
theorem lastInstructionPortNamesWhatRan : Obligations.LastInstructionPortNamesWhatRan := by
  refine ⟨rfl, fun s t g hrun hfetch hstep => ?_, fun s t hhalted hstep => ?_, fun _ => rfl⟩
  · obtain ⟨d, hlookup, hformat⟩ := lookupOpcode_opcode g.instr
    have hopcode : d.opcode = g.instr.opcode := by simpa using List.find?_some hlookup
    obtain ⟨g', hfetch', rfl⟩ := step_completed hrun hstep
    cases hfetch.symm.trans hfetch'
    obtain ⟨-, -, -, hbyte, -, -⟩ := fetch_ok hfetch
    rw [fetch_ok_opcode hfetch] at hlookup
    refine ⟨d, hlookup, hopcode, hformat, ?_⟩
    simp [lastInstruction, latched, hbyte, hlookup, fetch_ok_operands hfetch]
  · rw [step_of_halted hhalted] at hstep
    cases hstep
    rfl

end Sys2Proof.Machine
end

section
/-! The ports that store one byte: the joystick cell and the update flag (spec/60_exceptions.md R156, R163). -/

namespace Sys2Proof.Machine

theorem State.writeByte_cellsKeptBut (s : State) (a : Word) (v : Byte) : CellsKeptBut [a] s (s.writeByte a v) :=
  fun _ hb => State.readByte_writeByte_other s (by simpa using hb) v

/-- Settles O56. -/
theorem writeDigitalInputStoresTheByte : Obligations.WriteDigitalInputStoresTheByte := by
  refine fun s v => ⟨?_, rfl, s.writeByte_cellsKeptBut _ _⟩
  rw [writeDigitalInput, State.readByte_writeByte_self, wrapByte_toNat]

theorem Params.flagSetValue_ne_zero {p : Params} (h : p.wf = true) : p.flagSetValue ≠ 0x00 := by
  simp only [Params.wf, Bool.and_eq_true, bne_iff_ne] at h
  exact h.1.1.2

theorem readByte_setUpdateFlag (v : Bool) (s : State) :
    (setUpdateFlag v s).readByte s.cfg.flagAddr = if v then s.cfg.flagSetValue else 0x00 :=
  State.readByte_writeByte_self ..

/-- The two values of the flag are told apart because FLAG_SET_VALUE is nonzero (R6, D8). -/
theorem updateFlag_setUpdateFlag {s : State} (h : s.cfg.wf = true) (v : Bool) :
    updateFlag (setUpdateFlag v s) = v := by
  have hread : updateFlag (setUpdateFlag v s) = ((if v then s.cfg.flagSetValue else 0x00) != 0x00) :=
    congrArg (· != 0x00) (readByte_setUpdateFlag v s)
  rw [hread]
  cases v with
  | true => simpa using Params.flagSetValue_ne_zero h
  | false => rfl

theorem updateFlag_resetWith {p : Params} (h : p.wf = true) : updateFlag (State.resetWith p) = true := by
  rw [updateFlag, State.resetWith_cfg, readByte_resetWith, unlistedByte_flag]
  simpa using Params.flagSetValue_ne_zero h

/-- Settles O57. -/
theorem updateFlagAccessorsAgree : Obligations.UpdateFlagAccessorsAgree := fun s hwf =>
  ⟨fun v => ⟨updateFlag_setUpdateFlag hwf v, s.writeByte_cellsKeptBut _ _, rfl⟩, readByte_setUpdateFlag false s,
    readByte_setUpdateFlag true s, updateFlag_resetWith hwf⟩

end Sys2Proof.Machine
end

section
/-! Init as the sequence of its writes (spec/70_reset_and_hazards.md R180, R181). Each stage is said cell by cell;
together they leave in every cell what the reset state reads there, and canonical memories that read alike are equal. -/

namespace Sys2Proof.Machine

variable {s : State}

theorem startupFrameBytes_length (p : Params) : (startupFrameBytes p).length = 8192 := by
  rw [startupFrameBytes, List.length_map, List.length_range]

theorem startupFrameBytes_getD (p : Params) {k : Nat} (hk : k < 8192) :
    (startupFrameBytes p).getD k 0x00 = p.startupFrame.getD k 0x00 := by
  rw [List.getD_eq_getElem _ _ (by rwa [startupFrameBytes_length])]
  simp [startupFrameBytes]

theorem cpuReset_cfg (s : State) : (cpuReset s).cfg = s.cfg := rfl

theorem cpuReset_readByte (s : State) (a : Word) :
    (cpuReset s).readByte a = if a = s.cfg.tockAddr then s.cfg.tockCellAtInit else s.readByte a :=
  State.readByte_writeByte ..

theorem graphicsInit_readByte (s : State) (a : Word) :
    (graphicsInit s).readByte a =
      if a = s.cfg.flagAddr then s.cfg.flagSetValue
      else if 0xE000 ≤ a.toNat then s.cfg.startupFrame.getD (a.toNat - 0xE000) 0x00 else s.readByte a := by
  have ha := a.isLt
  have hstart : brightnessStart.toNat = 0xE000 := rfl
  have hfits : brightnessStart.toNat + (startupFrameBytes s.cfg).length ≤ 0x10000 := by
    rw [startupFrameBytes_length, hstart]
  rw [graphicsInit, setUpdateFlag, State.readByte_writeByte, State.writeRun_cfg, if_pos rfl,
    State.readByte_writeRun s hfits, startupFrameBytes_length, hstart]
  congr 1
  by_cases hplane : 0xE000 ≤ a.toNat
  · rw [if_pos (by omega), if_pos hplane, startupFrameBytes_getD _ (by omega)]
  · rw [if_neg (by omega), if_neg hplane]

/-- The first two stages of R180: the I/O page filled with 00, the program area with FF. -/
def initFills (s : State) : State :=
  (s.writeRun 0x0000 (List.replicate 0x100 0x00)).writeRun 0x0100 (List.replicate 0xDF00 0xFF)

theorem initSequence_eq (s : State) : initSequence s = graphicsInit (cpuReset (initFills s)) := rfl

theorem initFills_readByte (s : State) {a : Word} (ha : a.toNat < 0xE000) :
    (initFills s).readByte a = if a.toNat < 0x0100 then 0x00 else 0xFF := by
  have hio : (0x0000 : Word).toNat = 0 := rfl
  have hprogram : (0x0100 : Word).toNat = 0x0100 := rfl
  rw [initFills, State.readByte_fill _ _ (by decide), State.readByte_fill _ _ (by decide), hio, hprogram]
  by_cases hpage : a.toNat < 0x0100
  · rw [if_neg (by omega), if_pos (by omega), if_pos hpage]
  · rw [if_pos (by omega), if_neg hpage]

theorem keepsInv_initFills (s : State) : KeepsInv s (initFills s) :=
  (keepsInv_writeRun s _ _).trans (keepsInv_writeRun _ _ _)

/-- The latch is emptied, the parameters stay. -/
theorem keepsInv_cpuReset (s : State) : KeepsInv s (cpuReset s) := fun hinv =>
  let ⟨hparams, hmem, _⟩ := State.inv_iff.1 hinv
  ⟨State.inv_iff.2 ⟨hparams, State.wf_writeByte hmem _ _, rfl⟩, rfl⟩

theorem keepsInv_graphicsInit (s : State) : KeepsInv s (graphicsInit s) :=
  (keepsInv_writeRun s _ _).trans (keepsInv_writeByte _ _ _)

theorem keepsInv_initSequence (s : State) : KeepsInv s (initSequence s) :=
  (keepsInv_initFills s).trans ((keepsInv_cpuReset _).trans (keepsInv_graphicsInit _))

theorem initFills_cfg (s : State) : (initFills s).cfg = s.cfg :=
  (State.writeRun_cfg ..).trans (State.writeRun_cfg ..)

theorem graphicsInit_frame (s : State) : graphicsInit s = { s with mem := (graphicsInit s).mem } := by
  rw [graphicsInit, setUpdateFlag, State.writeByte, State.writeRun_frame]

/-- Whatever the registers were, the CPU reset sets all of them, and the chip writes memory alone. -/
theorem graphicsInit_cpuReset_frame (s : State) :
    graphicsInit (cpuReset s) = { State.resetWith s.cfg with mem := (graphicsInit (cpuReset s)).mem } :=
  graphicsInit_frame (cpuReset s)

theorem initSequence_frame (s : State) :
    initSequence s = { State.resetWith s.cfg with mem := (initSequence s).mem } := by
  have hframe := graphicsInit_cpuReset_frame (initFills s)
  rwa [initFills_cfg, ← initSequence_eq] at hframe

/-- After the sequence of writes every cell holds what the reset state reads there (R21). -/
theorem initSequence_readByte (h : s.cfg.wf = true) (a : Word) :
    (initSequence s).readByte a = unlistedByte s.cfg a.toNat := by
  have hcfg : (cpuReset (initFills s)).cfg = s.cfg := (cpuReset_cfg _).trans (initFills_cfg s)
  rw [initSequence_eq, graphicsInit_readByte, hcfg]
  by_cases hflag : a = s.cfg.flagAddr
  · rw [if_pos hflag, hflag, unlistedByte_flag]
  rw [if_neg hflag]
  by_cases hplane : 0xE000 ≤ a.toNat
  · rw [if_pos hplane, unlistedByte_planes hplane]
  rw [if_neg hplane, cpuReset_readByte, initFills_cfg]
  by_cases htock : a = s.cfg.tockAddr
  · rw [if_pos htock, htock, unlistedByte_tock (Params.cells_apart h).2]
  rw [if_neg htock, initFills_readByte s (by omega)]
  by_cases hpage : a.toNat < 0x0100
  · rw [if_pos hpage, unlistedByte_ioPage hpage hflag htock]
  · rw [if_neg hpage, unlistedByte_program (by omega) (by omega)]

/-- Settles O51: the registers are those of the reset state, and so is the memory, read cell by cell. -/
theorem initSequenceReachesTheResetState : Obligations.InitSequenceReachesTheResetState := by
  intro s hinv
  refine ⟨?_, rfl⟩
  obtain ⟨hparams, -, -⟩ := State.inv_iff.1 hinv
  obtain ⟨hend, hcfg⟩ := keepsInv_initSequence s hinv
  obtain ⟨-, hmem, -⟩ := State.inv_iff.1 hend
  rw [hcfg] at hmem
  have hempty : (initSequence s).mem = [] := by
    refine Memory.eq_of_read_eq hmem (Memory.wf_nil s.cfg) fun a => ?_
    have hread := initSequence_readByte hparams a
    rwa [State.readByte, hcfg] at hread
  rw [initSequence_frame, hempty]
  rfl

end Sys2Proof.Machine
end

section
/-! Load, and the machine with nothing loaded (spec/70_reset_and_hazards.md R183, R184). -/

namespace Sys2Proof.Machine

/-- Settles O53. -/
theorem loadCopiesTheBytes : Obligations.LoadCopiesTheBytes := by
  refine fun s bytes => ⟨s.writeRun_frame _ _, fun i hi hlast => ?_, fun a ha => ?_⟩
  · have haddr : wrapAddr (0x0100 + (i : Int)) = 0x0100 + BitVec.ofNat 16 i := wrapAddr_add_natCast 0x0100 i
    rw [State.memRead, haddr, load, State.readByte_writeRun_last s _ _ i hi hlast]
  · refine s.readByte_writeRun_outside _ a bytes fun i hi hcell => ha i hi ?_
    have hstart : (0x0100 : Word).toNat = 0x0100 := rfl
    rw [hcell, BitVec.toNat_add, BitVec.toNat_ofNat, hstart]
    omega

/-- Settles O52: at IC stands the FF that fills the program area, which is HLT. -/
theorem unloadedMachineHaltsAtOnce : Obligations.UnloadedMachineHaltsAtOnce := by
  have hbyte : State.reset.readByte State.reset.ic = Instr.hlt.opcode :=
    (readByte_resetWith _ _).trans (unlistedByte_program (a := 0x0100) (by decide) (by decide))
  exact ⟨_, step_of_opcode (i := .hlt) rfl hbyte rfl, rfl, rfl, rfl, rfl, rfl⟩

end Sys2Proof.Machine
end
